-- ==== Sys2Proof/Word.lean ====
section
/-! DEFINITION. The word of the machine. A cell value, an operand, an address and a result is a natural number, and no rule
looks at the bits of one (R10, R11): the type of a word is `Nat` itself, and a width is named only as `v < 2 ^ W`. -/

namespace Sys2Proof

/-- `v` can stand in a cell of width `W` (R10). -/
abbrev Word.Fits (W v : Nat) : Prop := v < 2 ^ W

/-- The only reduction of the arithmetic: `v mod 2^W` (R103, `OVERFLOW_MODE = Wrap`). -/
def Word.wrap (W v : Nat) : Nat := v % 2 ^ W

/-- Program text: a finite sequence of characters (R121). -/
abbrev Text := List Char

end Sys2Proof
end

