-- ==== Sys2Proof/Config.lean ====
section
/-! DEFINITION. The implementation parameters of the block (00_scope.md R8), as plain data a model takes as an argument. -/

namespace Sys2Proof

/-- What ADD and MUL do when the exact result is not below `2^W` (R8, R103). -/
inductive OverflowMode where
  | fault
  | wrap
  deriving DecidableEq, Repr

/-- Whether the three field cells are fetched before the opcode is checked (R8, R83). -/
inductive DecodeOrder where
  | operandsFirst
  | opcodeFirst
  deriving DecidableEq, Repr

/-- The parameters of R8. `width` is the spec's `W`. -/
structure Config where
  width             : Nat
  overflowMode      : OverflowMode
  decodeOrder       : DecodeOrder
  stepLimit         : Option Nat
  loaderAcceptsPlus : Bool
  directNoun        : Nat
  directVerb        : Nat
  target            : Nat
  deriving DecidableEq, Repr

/-- The spec's own values (R8: D2, D3, D4, D7, D13, D23; log 2). -/
def Config.default : Config where
  width             := 64
  overflowMode      := .fault
  decodeOrder       := .operandsFirst
  stepLimit         := none
  loaderAcceptsPlus := false
  directNoun        := 12
  directVerb        := 2
  target            := 19690720

/-- `W >= 1` (R8), the only bound the spec puts on a parameter by itself. -/
abbrev Config.wf (c : Config) : Prop := 1 ≤ c.width

end Sys2Proof
end

