-- ==== Sys2Proof/Syntax.lean ====
section
/-! DEFINITION. The instruction set: one constructor per row of spec/opcode_table.json (R65). -/

namespace Sys2Proof

/-- A decoded instruction. `a`, `b` and `d` are addresses, never values (R62, R63). -/
inductive Instr where
  /-- `[1, a, b, d]`: `mem[d] = mem[a] + mem[b]` (R100). -/
  | add (a b d : Nat)
  /-- `[2, a, b, d]`: `mem[d] = mem[a] * mem[b]` (R101). -/
  | mul (a b d : Nat)
  /-- `[99]`: stop (R110). -/
  | hlt
  deriving DecidableEq, Repr

/-- The opcode value of an instruction (R65). -/
def Instr.opcode : Instr → Nat
  | .add _ _ _ => 1
  | .mul _ _ _ => 2
  | .hlt => 99

/-- The length in cells (R60, R65). -/
def Instr.length : Instr → Nat
  | .add _ _ _ => 4
  | .mul _ _ _ => 4
  | .hlt => 1

end Sys2Proof
end

