-- ==== Sys2Proof/Machine/State.lean ====
section
/-! DEFINITION. The state of the block (10_state.md), the fault records it can hold, and the state after reset. -/

namespace Sys2Proof.Machine

/-- A memory image: cells `0` to `L - 1` in address order, `L` the length of the list (R23, R40; log 1).
Every address below `L` has a value (R34) and no other address exists (R41). -/
structure Memory where
  cells : List Nat
  deriving DecidableEq, Repr

/-- The image with no cell, which stands for "no image exists" before the first transaction (R190; log 4). -/
def Memory.empty : Memory := { cells := [] }

/-- The status register of the core (R24). -/
inductive Status where
  | idle
  | running
  | halted
  | faulted
  deriving DecidableEq, Repr

/-- A fault record: kind and data (R171). -/
inductive FaultRecord where
  | parseError (token : Text)
  | outOfBounds (address length : Nat)
  | unknownOpcode (value : Nat)
  | stepLimitExceeded (limit : Nat)
  | arithmeticOverflow (opcode x y : Nat)
  deriving DecidableEq, Repr

/-- The status of the search scheduler (R30, R155). -/
inductive SearchStatus where
  | idle
  | searching
  | found
  | notFound
  deriving DecidableEq, Repr

/-- Which transaction is in progress (R160; log 5). `LOAD` never is: it starts and ends in one step. -/
inductive Activity where
  | idle
  | run
  | direct
  | search
  | calibrate
  deriving DecidableEq, Repr

/-- A transaction with its arguments (R160). -/
inductive Request where
  | load (text : Text)
  | run (image : Memory)
  | search (base : Memory) (target : Nat)
  | direct (text : Text) (noun verb : Nat)
  | calibrate (text : Text) (target : Nat)
  deriving DecidableEq, Repr

/-- The result of a transaction (R160). -/
inductive Reply where
  /-- `LOAD`: the image (R129). -/
  | image (m : Memory)
  /-- `RUN`: the observation `(status, fault, ip, image)` (R92). -/
  | ran (status : Status) (fault : Option FaultRecord) (ip : Nat) (m : Memory)
  /-- `SEARCH`: the first match (R148). -/
  | found (noun verb : Nat)
  /-- `CALIBRATE`: the first match and its checksum (R165). -/
  | foundChecksum (noun verb checksum : Nat)
  /-- `SEARCH`, `CALIBRATE`: no pair matches (R148, R165). -/
  | notFound
  /-- `DIRECT`: the value of cell 0 (R163). -/
  | value (v : Nat)
  /-- `LOAD`, `DIRECT`, `CALIBRATE`: the error that ended it, with its data (R164, R175). -/
  | error (f : FaultRecord)
  deriving DecidableEq, Repr

/-- The whole state. -/
structure State where
  /-- The parameters (R8; log 2). No step changes them. -/
  cfg      : Config
  /-- Core: status register (R24). -/
  status   : Status
  /-- Core: instruction pointer (R21). -/
  ip       : Nat
  /-- Core: fault register (R25). -/
  fault    : Option FaultRecord
  /-- Core: step counter (R26). -/
  steps    : Nat
  /-- Core: the image the core runs on (R23). During a trial this is the scheduler's `trial` (R30; log 8). -/
  mem      : Memory
  /-- Scheduler: base image (R30). -/
  base     : Memory
  /-- Scheduler: the value looked for (R30). -/
  target   : Nat
  /-- Scheduler: the current pair's noun (R30). -/
  noun     : Nat
  /-- Scheduler: the current pair's verb (R30). -/
  verb     : Nat
  /-- Scheduler: status (R155). -/
  sstatus  : SearchStatus
  /-- Scheduler: the matching pair (R30). -/
  result   : Option (Nat × Nat)
  /-- Interface: the transaction in progress (log 5). -/
  activity : Activity
  /-- Interface: the transaction the host has handed over and the block has not started (log 5). -/
  request  : Option Request
  /-- Interface: the result of the last finished transaction (log 5). -/
  reply    : Option Reply
  deriving DecidableEq, Repr

/-- Why a step stops the model. None is a fault of the spec: those are taken by a next state (R172; log 3). -/
inductive Fault where
  /-- Raised by `step` where no transaction is in progress and none is pending: no step exists there (R80). Safe. -/
  | noTransaction
  /-- Raised by `step` where a `RUN` or `DIRECT` is in progress and no run was started, a state no transaction leads to
  (R24). Safe. -/
  | noRun
  deriving DecidableEq, Repr

/-- Why a step has no meaning in the model. -/
inductive Refusal where
  /-- Raised by an arm of `exec` whose instruction has no meaning yet. Safe. No arm raises it today. -/
  | notModelled (mnemonic : String)
  /-- Raised by the start of `RUN` or `SEARCH` on an argument that is no memory image, having a cell not below `2^W`
  (R40; log 11). Safe. -/
  | notAnImage
  /-- Raised by the start of `DIRECT`, once its text has loaded, with a patch value that is no cell value (R8, R43;
  log 11). Safe. -/
  | notACellValue
  /-- Raised where a search would start, by `SEARCH` or by `CALIBRATE` once its text has loaded, with `W < 7`: such a model
  has no search (R143; log 11). Safe. -/
  | noSearchBelowSevenBits
  deriving DecidableEq, Repr

/-- The reset values of R33 for given parameters; log 4 names the values the spec gives none for, log 5 those of the
interface fields. -/
def State.resetWith (c : Config) : State where
  cfg      := c
  status   := .idle
  ip       := 0
  fault    := none
  steps    := 0
  mem      := Memory.empty
  base     := Memory.empty
  target   := 0
  noun     := 0
  verb     := 0
  sstatus  := .idle
  result   := none
  activity := .idle
  request  := none
  reply    := none

/-- The block before any transaction (R33, R190), with the spec's own parameters (R8). -/
def State.reset : State := State.resetWith Config.default

end Sys2Proof.Machine
end

