-- ==== Sys2Proof/WellFormed.lean ====
section
/-! DEFINITION. When an instruction can stand in cells of width `W`: each of its fields is the whole value of a cell (R60, R62). -/

namespace Sys2Proof

/-- Every cell of the instruction holds its field: the opcode and, for format A4, the three addresses fit a cell of
width `W` (R10, R60; R9 for the opcode 99). -/
def Instr.wellFormed (W : Nat) : Instr → Bool
  | .add a b d => decide (Word.Fits W 1) && decide (Word.Fits W a) && decide (Word.Fits W b) && decide (Word.Fits W d)
  | .mul a b d => decide (Word.Fits W 2) && decide (Word.Fits W a) && decide (Word.Fits W b) && decide (Word.Fits W d)
  | .hlt => decide (Word.Fits W 99)

end Sys2Proof
end

