-- ==== Sys2Proof/Machine/Ops.lean ====
section
/-! DEFINITION. The named operations over memory and the core's registers: the memory primitives (20_memory.md),
raising a fault (60_exceptions.md R172), starting a run (R90), and the register updates of a step. -/

namespace Sys2Proof.Machine

/-- A computation that may raise a fault (R14). -/
abbrev Raises (α : Type) := Except FaultRecord α

/-! ### Memory -/

/-- The length query, the spec's `L` (R47). -/
def Memory.length (m : Memory) : Nat := m.cells.length

/-- `MemRead(addr, 1)` (R42). -/
def Memory.read (m : Memory) (addr : Nat) : Raises Nat :=
  match m.cells[addr]? with
  | some v => .ok v
  | none => .error (.outOfBounds addr m.length)

/-- `MemWrite(addr, 1, v)` (R43). -/
def Memory.write (m : Memory) (addr : Nat) (v : Nat) : Raises Memory :=
  if addr < m.length then .ok { cells := m.cells.set addr v } else .error (.outOfBounds addr m.length)

/-- `copy(m)`, a full duplicate (R46): a value of its own, so no later write to one changes the other. -/
def Memory.copy (m : Memory) : Memory := { cells := m.cells.map id }

/-- What an image is: every cell is below `2^W` (R40). The list has one form for each image (log 1). -/
def Memory.wf (W : Nat) (m : Memory) : Bool := m.cells.all fun v => decide (Word.Fits W v)

/-- `cs` laid over the image from address `at` on, the image made longer with zeros where it ends before them. Used by
`State.withFetchWord` alone: no rule of the block makes an image longer (R48). -/
def Memory.overlay (m : Memory) (pos : Nat) (cs : List Nat) : Memory :=
  { cells := m.cells.take pos ++ List.replicate (pos - m.length) 0 ++ cs ++ m.cells.drop (pos + cs.length) }

/-! ### The core's registers -/

/-- Taking a fault (R172): the status and the fault record are written and nothing else, `ip` keeps the address of the
faulting instruction and the image keeps every write of the earlier steps (log 3). There is no return from a fault
(R174). -/
def State.raise (s : State) (f : FaultRecord) : State := { s with status := .faulted, fault := some f }

/-- The end of a step: the new state, or the fault taken in the state the step began with (R14, R84). -/
def State.settle (s : State) : Raises State → Host.Outcome State Fault Refusal
  | .ok s' => .next s'
  | .error f => .next (s.raise f)

/-- The end of ADD and MUL: the written image and `ip <- ip + 4` (R102). -/
def State.retire (s : State) (m : Memory) : State := { s with mem := m, ip := s.ip + 4 }

/-- `status <- Halted` (R110). -/
def State.halt (s : State) : State := { s with status := .halted }

/-- `steps <- steps + 1` (R88). -/
def State.countStep (s : State) : State := { s with steps := s.steps + 1 }

/-- `StepLimitCheck()` (R88). -/
def State.stepLimitCheck (s : State) : Raises State :=
  match s.cfg.stepLimit with
  | none => .ok s
  | some n => if n ≤ s.steps then .error (.stepLimitExceeded n) else .ok s.countStep

/-- The start of a run on an image (R90). -/
def State.startRun (s : State) (m : Memory) : State :=
  { s with status := .running, ip := 0, fault := none, steps := 0, mem := m }

/-- The core without a run: R33's values, the image gone (log 8). -/
def State.discardRun (s : State) : State :=
  { s with status := .idle, ip := 0, fault := none, steps := 0, mem := Memory.empty }

/-- A transaction's result and the end of the transaction (R160). -/
def State.finish (s : State) (r : Reply) : State := { s with activity := .idle, reply := some r }

/-- The host hands over a transaction (R160). It has no move while one is pending or in progress (R167). -/
def State.submit (s : State) (r : Request) : State :=
  match s.activity, s.request with
  | .idle, none => { s with request := some r }
  | _, _ => s

/-- `cs` placed at the instruction pointer of a running core, each reduced to a cell value: what
`State.withFetchWord` does (log 9). -/
def State.placeWindow (s : State) (cs : List Nat) : State :=
  { s with
    status := .running
    fault := none
    steps := 0
    activity := match s.activity with
      | .idle => .run
      | a => a
    mem := s.mem.overlay s.ip (cs.map (Word.wrap s.cfg.width)) }

/-! ### Views -/

/-- The scheduler's `trial` (R30): the image the core holds for it, while a trial runs, has ended and is not yet judged,
or has won; `none` else (log 8). -/
def State.trial (s : State) : Option Memory :=
  match s.sstatus, s.status with
  | .searching, .idle => none
  | .searching, _ => some s.mem
  | .found, _ => some s.mem
  | _, _ => none

/-- The numeric code of a fault kind (R171). -/
def FaultRecord.code : FaultRecord → Nat
  | .parseError _ => 1
  | .outOfBounds _ _ => 2
  | .unknownOpcode _ => 3
  | .stepLimitExceeded _ => 4
  | .arithmeticOverflow _ _ _ => 5

end Sys2Proof.Machine
end

