-- ==== Sys2Proof/Machine/Loader.lean ====
section
/-! DEFINITION. `instruction_loader`: program text to memory image (44_loader.md). -/

namespace Sys2Proof.Machine

/-- LF, code 10 (R122). -/
def isLineFeed (c : Char) : Bool := c.toNat == 10

/-- The comma, code 44 (R123). -/
def isComma (c : Char) : Bool := c.toNat == 44

/-- The plus sign, code 43 (R124). -/
def isPlus (c : Char) : Bool := c.toNat == 43

/-- The whitespace set: codes 9 to 13 and 32 (R124, D12). -/
def isSpace (c : Char) : Bool := (decide (9 ≤ c.toNat) && decide (c.toNat ≤ 13)) || c.toNat == 32

/-- The ASCII digits, codes 48 to 57 (R124). -/
def isDigit (c : Char) : Bool := decide (48 ≤ c.toNat) && decide (c.toNat ≤ 57)

/-- The selected line: the characters before the first LF, or all of them (R122). -/
def firstLine (text : Text) : Text := text.takeWhile (fun c => !isLineFeed c)

/-- The tokens of a line: it is split at every comma (R123). -/
def splitCommas : Text → List Text
  | [] => [[]]
  | c :: cs =>
    if isComma c then [] :: splitCommas cs
    else match splitCommas cs with
      | [] => [[c]]
      | t :: ts => (c :: t) :: ts

/-- A token without its leading and trailing whitespace (R124). -/
def trim (t : Text) : Text := ((t.dropWhile isSpace).reverse.dropWhile isSpace).reverse

/-- The digits of a trimmed token: one leading `+` is dropped where the loader accepts it (R124, R129). -/
def dropPlus (c : Config) (t : Text) : Text :=
  match t with
  | [] => []
  | x :: xs => if c.loaderAcceptsPlus && isPlus x then xs else t

/-- The value of one ASCII digit (R124). -/
def digitValue (c : Char) : Nat := c.toNat - 48

/-- The value of a decimal numeral read most significant digit first, after digits of value `acc` (R124). -/
def decimalFrom : Text → Nat → Nat
  | [], acc => acc
  | x :: xs, acc => decimalFrom xs (10 * acc + digitValue x)

/-- The value of a decimal numeral (R124). -/
def decimalValue (t : Text) : Nat := decimalFrom t 0

/-- One token (R124, R125, R129): its value, or `ParseError` with the trimmed token. -/
def parseToken (c : Config) (tok : Text) : Raises Nat :=
  let t := trim tok
  let s := dropPlus c t
  if s.isEmpty || !s.all isDigit then .error (.parseError t)
  else if decimalValue s < 2 ^ c.width then .ok (decimalValue s)
  else .error (.parseError t)

/-- The tokens in order; the first invalid one ends the load (R127, R128). -/
def parseTokens (c : Config) : List Text → Raises (List Nat)
  | [] => .ok []
  | t :: ts =>
    match parseToken c t with
    | .error f => .error f
    | .ok v =>
      match parseTokens c ts with
      | .error f => .error f
      | .ok vs => .ok (v :: vs)

/-- `Load(text)` (R129). -/
def load (c : Config) (text : Text) : Raises Memory :=
  match parseTokens c (splitCommas (firstLine text)) with
  | .ok vs => .ok { cells := vs }
  | .error f => .error f

/-! ### Writing program text -/

/-- The decimal digit of `n` (R124). -/
def digitChar (n : Nat) : Char := Char.ofNat (48 + n)

/-- The decimal numeral of `n`, most significant digit first, with at most `fuel` digits. -/
def numeralFuel : Nat → Nat → Text → Text
  | 0, _, acc => acc
  | fuel + 1, n, acc =>
    if n < 10 then digitChar n :: acc else numeralFuel fuel (n / 10) (digitChar (n % 10) :: acc)

/-- The decimal numeral of `n` (R124). -/
def numeral (n : Nat) : Text := numeralFuel (n + 1) n []

/-- The program text of a list of cells: the cells joined by `,` (R71, R72). -/
def programText : List Nat → Text
  | [] => []
  | [v] => numeral v
  | v :: v' :: vs => numeral v ++ Char.ofNat 44 :: programText (v' :: vs)

end Sys2Proof.Machine
end

