-- ==== Sys2Proof/Decode.lean ====
section
/-! DEFINITION. Decoding cells into an instruction (30_encoding.md), and the encoder. -/

namespace Sys2Proof

/-- Why cells are not an instruction. -/
inductive DecodeError where
  /-- There is no opcode cell. -/
  | noOpcode
  /-- The opcode is 1 or 2 and only `present` of the three field cells are there (R60). -/
  | missingFields (opcode present : Nat)
  /-- The opcode is none of 1, 2 and 99 (R66). -/
  | unknownOpcode (value : Nat)
  deriving DecidableEq, Repr

/-- The decode function of R69 on the opcode cell and the three cells after it. -/
def decodeFields (op c1 c2 c3 : Nat) : Except DecodeError Instr :=
  if op = 99 then .ok .hlt
  else if op = 1 then .ok (.add c1 c2 c3)
  else if op = 2 then .ok (.mul c1 c2 c3)
  else .error (.unknownOpcode op)

/-- Decoding from a list of cells, with the cells that follow the instruction: 99 takes one cell, 1 and 2 take four
(R60, R68). Total: what is no instruction is rejected by name. -/
def decode : List Nat → Except DecodeError (Instr × List Nat)
  | [] => .error .noOpcode
  | op :: rest =>
    if op = 99 then .ok (.hlt, rest)
    else match rest with
      | c1 :: c2 :: c3 :: rest' =>
        match decodeFields op c1 c2 c3 with
        | .ok i => .ok (i, rest')
        | .error e => .error e
      | short =>
        if op = 1 ∨ op = 2 then .error (.missingFields op short.length) else .error (.unknownOpcode op)

/-- The cells of an instruction (R60, R65, R72). -/
def encode : Instr → List Nat
  | .add a b d => [1, a, b, d]
  | .mul a b d => [2, a, b, d]
  | .hlt => [99]

/-- The cells of a program, instruction after instruction (R72). -/
def encodeProgram : List Instr → List Nat
  | [] => []
  | i :: is => encode i ++ encodeProgram is

/-- Decoding cells as a program, instruction after instruction, up to the end of the cells. The first argument bounds
the number of instructions. -/
def decodeProgram : Nat → List Nat → Except DecodeError (List Instr)
  | _, [] => .ok []
  | 0, _ :: _ => .error .noOpcode
  | n + 1, c :: cs =>
    match decode (c :: cs) with
    | .error e => .error e
    | .ok (i, rest) =>
      match decodeProgram n rest with
      | .error e => .error e
      | .ok is => .ok (i :: is)

/-- The width in bits of a cell in the numbering of the opcode table's words: the spec's own value of `W` (R8; log 10). -/
def tableCellBits : Nat := 64

/-- Cells laid out in one number, the first cell in the least significant bits (log 10). -/
def packCells : List Nat → Nat
  | [] => 0
  | c :: cs => c + 2 ^ tableCellBits * packCells cs

/-- The first `n` cells of a number laid out as `packCells` does (log 10). -/
def unpackCells : Nat → Nat → List Nat
  | 0, _ => []
  | n + 1, w => w % 2 ^ tableCellBits :: unpackCells n (w / 2 ^ tableCellBits)

/-- The four cells of a table word: its low `nbits` bits, zeros above, in the longest instruction's four cells (log 10). -/
def tableCells (nbits w : Nat) : List Nat := unpackCells 4 (w % 2 ^ nbits)

/-- The instruction the decoder reads from a table word. -/
def decodeTableWord (nbits w : Nat) : Option Instr :=
  match decode (tableCells nbits w) with
  | .ok (i, _) => some i
  | .error _ => none

/-- An instruction as one table word. -/
def encodeTableWord (i : Instr) : Nat := packCells (encode i)

end Sys2Proof
end

