-- ==== Sys2Proof/Machine/Flags.lean ====
section
/-! DEFINITION. The core has no flags and no condition codes (R27, R105). What another machine would put in a carry or
overflow flag is here the choice of R103: a fault or a wrapped value. -/

namespace Sys2Proof.Machine

/-- `Reduce(op, x, y, v)` (R103): the exact result `v` of opcode `op` on `x` and `y` narrowed to a cell. -/
def reduce (c : Config) (op x y v : Nat) : Raises Nat :=
  if v < 2 ^ c.width then .ok v
  else match c.overflowMode with
    | .fault => .error (.arithmeticOverflow op x y)
    | .wrap => .ok (Word.wrap c.width v)

end Sys2Proof.Machine
end

