-- ==== Sys2Proof/Machine/Operands.lean ====
section
/-! DEFINITION. The one operand form: positional addressing (R63). -/

namespace Sys2Proof.Machine

/-- A source operand: the field is the address of the value (R63). -/
def State.readOperand (s : State) (field : Nat) : Raises Nat := s.mem.read field

/-- The destination's bound, checked before the result is computed (R102, C9). -/
def State.checkDestination (s : State) (field : Nat) : Raises Unit :=
  if field < s.mem.length then .ok () else .error (.outOfBounds field s.mem.length)

/-- The write of the result to the destination (R63, R102). -/
def State.writeDestination (s : State) (field : Nat) (v : Nat) : Raises Memory := s.mem.write field v

end Sys2Proof.Machine
end

