-- ==== Sys2Proof/Machine/Arithmetic.lean ====
section
/-! DEFINITION. ADD and MUL (41_arithmetic.md). -/

namespace Sys2Proof.Machine

/-- `Execute_Arith(op, f, a, b, d)` (R102): read `mem[a]`, read `mem[b]`, check the destination, reduce, write, advance. -/
def arith (op : Nat) (f : Nat → Nat → Nat) (a b d : Nat) (s : State) : Raises State := do
  let x ← s.readOperand a
  let y ← s.readOperand b
  s.checkDestination d
  let r ← reduce s.cfg op x y (f x y)
  let m ← s.writeDestination d r
  return s.retire m

/-- ADD (R100). -/
def execAdd (a b d : Nat) (s : State) : Host.Outcome State Fault Refusal :=
  s.settle (arith 1 (fun x y => x + y) a b d s)

/-- MUL (R101). -/
def execMul (a b d : Nat) (s : State) : Host.Outcome State Fault Refusal :=
  s.settle (arith 2 (fun x y => x * y) a b d s)

end Sys2Proof.Machine
end

