-- ==== Sys2Proof/Machine/Control.lean ====
section
/-! DEFINITION. HALT (42_control.md), the only control instruction (R111, R113). -/

namespace Sys2Proof.Machine

/-- HALT (R110): `status <- Halted`, `ip` is not advanced. -/
def execHlt (s : State) : Host.Outcome State Fault Refusal := .next s.halt

end Sys2Proof.Machine
end

