-- ==== Sys2Proof/Machine/Cycle.lean ====
section
/-! DEFINITION. The fetch-decode-execute cycle and a run (40_execution_cycle.md). -/

namespace Sys2Proof.Machine

/-- The three field cells, in the order `ip+1`, `ip+2`, `ip+3` (R82). -/
def State.fetchFields (s : State) : Raises (Nat × Nat × Nat) := do
  let a ← s.mem.read (s.ip + 1)
  let b ← s.mem.read (s.ip + 2)
  let d ← s.mem.read (s.ip + 3)
  return (a, b, d)

/-- The rest of the fetch once the opcode `op` is read: the three fields, then the opcode is checked and the instruction
decoded (R69, R82). -/
def State.fetchRest (s : State) (op : Nat) : Raises Instr :=
  match s.fetchFields with
  | .error f => .error f
  | .ok (a, b, d) =>
    match decodeFields op a b d with
    | .ok i => .ok i
    | .error _ => .error (.unknownOpcode op)

/-- Fetch and decode, in the order of R82: the opcode cell, then nothing more for HALT; under `OpcodeFirst` the opcode
is checked next (R83); then the rest. -/
def State.fetch (s : State) : Raises Instr :=
  match s.mem.read s.ip with
  | .error f => .error f
  | .ok op =>
    if op = 99 then .ok .hlt
    else if s.cfg.decodeOrder = .opcodeFirst ∧ op ≠ 1 ∧ op ≠ 2 then .error (.unknownOpcode op)
    else s.fetchRest op

/-- `Step()` (R82): the step-limit check, fetch and decode, execute. A raise before the execute part is taken at once
(R14), in the state reached so far (R84). -/
def coreStep (s : State) : Host.Outcome State Fault Refusal :=
  match s.stepLimitCheck with
  | .error f => .next (s.raise f)
  | .ok s1 =>
    match s1.fetch with
    | .error f => .next (s1.raise f)
    | .ok i => exec i s1

/-- `k` passes of the loop of R91: step while `status = Running`. -/
def runLoop : Nat → State → State
  | 0, s => s
  | k + 1, s =>
    match s.status with
    | .running =>
      match coreStep s with
      | .next s' => runLoop k s'
      | .fault _ => s
      | .refused _ => s
    | _ => s

/-- `Run(m)` (R91) on a core whose other state is `s`'s. The loop's `L / 4 + 1` passes are all a run can take (R93). -/
def runOn (s : State) (m : Memory) : State := runLoop (m.length / 4 + 1) (s.startRun m)

/-- `Run(m)` under parameters `c`: what a run leaves of the core, whose `status`, `fault`, `ip` and `mem` are the
observation of R92. -/
def run (c : Config) (m : Memory) : State := runOn (State.resetWith c) m

end Sys2Proof.Machine
end

