-- ==== Sys2Proof/Machine/Search.lean ====
section
/-! DEFINITION. `search_scheduler`: the calibration search (45_search_scheduler.md), as the functions of its pseudocode
and as the moves the scheduler makes between two runs. -/

namespace Sys2Proof.Machine

/-- The patch: address 1, then address 2, each bounds-checked (R143, R163). -/
def Memory.patch (m : Memory) (noun verb : Nat) : Raises Memory := do
  let m1 ← m.write 1 noun
  m1.write 2 verb

/-- The test of a finished run: it halted and `mem[0]` is the target (R144, R146). -/
def State.matchesTarget (s : State) (target : Nat) : Bool :=
  match s.status, s.mem.read 0 with
  | .halted, .ok v => v == target
  | _, _ => false

/-- `Trial(base, T, noun, verb)` returns `Match` (R144); every fault is no match (R145). -/
def trialMatches (c : Config) (base : Memory) (target noun verb : Nat) : Bool :=
  match base.copy.patch noun verb with
  | .ok m => (run c m).matchesTarget target
  | .error _ => false

/-- The largest noun and verb (R141). -/
def lastIndex : Nat := 99

/-- The 10,000 pairs in row-major order (R141). -/
def searchPairs : List (Nat × Nat) :=
  (List.range (lastIndex + 1)).flatMap fun noun => (List.range (lastIndex + 1)).map fun verb => (noun, verb)

/-- `Search(base, T)` (R148): the first pair in row-major order whose trial matches, or `NotFound`. -/
def search (c : Config) (base : Memory) (target : Nat) : Option (Nat × Nat) :=
  searchPairs.find? fun p => trialMatches c base target p.1 p.2

/-- The checksum (R151, R165). -/
def checksum (noun verb : Nat) : Nat := 100 * noun + verb

/-! ### The scheduler's moves -/

/-- The start of a search (R148): `sstatus <- Searching`, `result <- none`, the first pair (R33). -/
def State.beginSearch (s : State) (a : Activity) (base : Memory) (target : Nat) : State :=
  { s with base := base, target := target, noun := 0, verb := 0, sstatus := .searching, result := none, activity := a }

/-- The result of a match: `Found(noun, verb)`, with the checksum for `CALIBRATE` (R148, R165). -/
def State.foundReply (s : State) : Reply :=
  match s.activity with
  | .calibrate => .foundChecksum s.noun s.verb (checksum s.noun s.verb)
  | _ => .found s.noun s.verb

/-- The early exit at the first match (R146). -/
def State.searchFound (s : State) : State :=
  { s with sstatus := .found, result := some (s.noun, s.verb) }.finish s.foundReply

/-- The end of a search without a match (R148). -/
def State.searchExhausted (s : State) : State := { s with sstatus := .notFound, result := none }.finish .notFound

/-- The next pair in row-major order, or the end of the search after `(99, 99)` (R141, R148). -/
def State.nextPair (s : State) : State :=
  if s.verb < lastIndex then { s with verb := s.verb + 1 }
  else if s.noun < lastIndex then { s with noun := s.noun + 1, verb := 0 }
  else s.searchExhausted

/-- The start of a trial: clone, patch, start the run (R142, R143, R144); a fault in the patch is no match (R145), and the
core then stays `Idle` with no fault record: DESIGN CHOICE (log 13). -/
def State.startTrial (s : State) : State :=
  match s.base.copy.patch s.noun s.verb with
  | .ok m => s.startRun m
  | .error _ => s.nextPair

/-- The end of a trial: the early exit on a match (R146), else the trial is discarded and the next pair is taken
(R145). -/
def State.endTrial (s : State) : State :=
  if s.matchesTarget s.target then s.searchFound else s.discardRun.nextPair

end Sys2Proof.Machine
end

