-- ==== Sys2Proof/Machine/Transactions.lean ====
section
/-! DEFINITION. The transactions of the block interface (46_host_interface.md R160): how each starts, goes on and ends,
and what each returns. -/

namespace Sys2Proof.Machine

/-- The outcome of one step. -/
abbrev Result := Host.Outcome State Fault Refusal

/-! ### What a transaction returns (R160) -/

/-- `DIRECT` after a run: the error with its data, or cell 0 (R163, R164). -/
def State.directReply (s : State) : Reply :=
  match s.fault with
  | some f => .error f
  | none =>
    match s.mem.read 0 with
    | .ok v => .value v
    | .error f => .error f

/-- The observation of a run (R92). -/
def State.runReply (s : State) : Reply := .ran s.status s.fault s.ip s.mem

/-- `DIRECT(text, noun, verb)` (R163). -/
def direct (c : Config) (text : Text) (noun verb : Nat) : Reply :=
  match load c text with
  | .error f => .error f
  | .ok m =>
    match m.patch noun verb with
    | .error f => .error f
    | .ok m' => (run c m').directReply

/-- `CALIBRATE(text, T)` (R165). -/
def calibrate (c : Config) (text : Text) (target : Nat) : Reply :=
  match load c text with
  | .error f => .error f
  | .ok base =>
    match search c base target with
    | some (n, v) => .foundChecksum n v (checksum n v)
    | none => .notFound

/-- The result of each transaction (R160), as a function of its arguments and the parameters. -/
def perform (c : Config) : Request → Reply
  | .load text =>
    match load c text with
    | .ok m => .image m
    | .error f => .error f
  | .run m => (run c m).runReply
  | .search base target =>
    match search c base target with
    | some (n, v) => .found n v
    | none => .notFound
  | .direct text noun verb => direct c text noun verb
  | .calibrate text target => calibrate c text target

/-- Whether every rule that a transaction reaches on its arguments gives it an effect: an image is an image (R40), a patch
value is a cell value (R8, R43), a search needs `W >= 7` (R143). `DIRECT` and `CALIBRATE` load first (R163, R165), so a
text that does not load is admitted whatever the other arguments are. What is not admitted is refused by name (log 11). -/
def Request.admitted (c : Config) : Request → Bool
  | .load _ => true
  | .run m => m.wf c.width
  | .search base _ => decide (7 ≤ c.width) && base.wf c.width
  | .direct text noun verb =>
    match Machine.load c text with
    | .error _ => true
    | .ok _ => decide (noun < 2 ^ c.width) && decide (verb < 2 ^ c.width)
  | .calibrate text _ =>
    match Machine.load c text with
    | .error _ => true
    | .ok _ => decide (7 ≤ c.width)

/-! ### How a transaction goes on, step by step -/

/-- `LOAD` (R129): it ends in the step that starts it. After a `ParseError` the core stays `Idle` with no fault record, and
the error stands in the reply alone: DESIGN CHOICE (log 13). -/
def State.beginLoad (s : State) (text : Text) : Result :=
  match load s.cfg text with
  | .ok m => .next (s.finish (.image m))
  | .error f => .next (s.finish (.error f))

/-- `RUN` (R91). -/
def State.beginRun (s : State) (m : Memory) : Result :=
  if m.wf s.cfg.width then .next { s.startRun m with activity := .run } else .refused .notAnImage

/-- `SEARCH` (R148). -/
def State.beginSearchOn (s : State) (base : Memory) (target : Nat) : Result :=
  if s.cfg.width < 7 then .refused .noSearchBelowSevenBits
  else if base.wf s.cfg.width then .next (s.beginSearch .search base target)
  else .refused .notAnImage

/-- `DIRECT` up to its run (R163): load, patch address 1, patch address 2, in this order (R177). A patch value that is no
cell value is refused after the load and before the patch, also where `L < 3` and the patch's bounds check would raise:
DESIGN CHOICE (log 11). After a raise in the load or in the patch
the core stays `Idle` with no fault record, and the error stands in the reply alone: DESIGN CHOICE (log 13). -/
def State.beginDirect (s : State) (text : Text) (noun verb : Nat) : Result :=
  match load s.cfg text with
  | .error f => .next (s.finish (.error f))
  | .ok m =>
    if noun < 2 ^ s.cfg.width ∧ verb < 2 ^ s.cfg.width then
      match m.patch noun verb with
      | .error f => .next (s.finish (.error f))
      | .ok m' => .next { s.startRun m' with activity := .direct }
    else .refused .notACellValue

/-- `CALIBRATE` up to its search (R165): the load comes first, and only the search needs `W >= 7` (R143; log 11). After a
`ParseError` the core stays `Idle` with no fault record: DESIGN CHOICE (log 13). -/
def State.beginCalibrate (s : State) (text : Text) (target : Nat) : Result :=
  match load s.cfg text with
  | .error f => .next (s.finish (.error f))
  | .ok base =>
    if s.cfg.width < 7 then .refused .noSearchBelowSevenBits
    else .next (s.beginSearch .calibrate base target)

/-- The start of a transaction: every piece of state takes its reset value (R33, R190; log 7), then the transaction
begins. -/
def State.begin (s : State) (r : Request) : Result :=
  let s0 := State.resetWith s.cfg
  match r with
  | .load text => s0.beginLoad text
  | .run m => s0.beginRun m
  | .search base target => s0.beginSearchOn base target
  | .direct text noun verb => s0.beginDirect text noun verb
  | .calibrate text target => s0.beginCalibrate text target

/-- The scheduler between two runs: start the next trial, or judge the one that ended (R144). -/
def State.schedule (s : State) : State :=
  match s.status with
  | .idle => s.startTrial
  | _ => s.endTrial

/-- The end of a run outside a search: its result is returned (R92, R163). -/
def State.endRun (s : State) (reply : Reply) : Result :=
  match s.status with
  | .idle => .fault .noRun
  | _ => .next (s.finish reply)

/-- One step of the block while no run is going on (log 6). -/
def controlStep (s : State) : Result :=
  match s.activity with
  | .idle =>
    match s.request with
    | none => .fault .noTransaction
    | some r => s.begin r
  | .run => s.endRun s.runReply
  | .direct => s.endRun s.directReply
  | .search => .next s.schedule
  | .calibrate => .next s.schedule

/-- `DIRECT` with the parameters' patch values (R8, R163). -/
def directRequest (c : Config) (text : Text) : Request := .direct text c.directNoun c.directVerb

/-- `CALIBRATE` with the parameters' target (R8, R165). -/
def calibrateRequest (c : Config) (text : Text) : Request := .calibrate text c.target

end Sys2Proof.Machine
end

