-- ==== Sys2Proof/Machine/Step.lean ====
section
/-! DEFINITION. One step of the block: the core's, while a run is going on (R80), else one of the block's own moves. -/

namespace Sys2Proof.Machine

/-- One step. -/
def step (s : State) : Host.Outcome State Fault Refusal :=
  match s.status with
  | .running => coreStep s
  | _ => controlStep s

/-- `s` with a table word's cells where `step` fetches its next instruction, in a run that is going on: this stands for
`LOAD` and the start of a run (R193; log 9, log 10). -/
def State.withFetchWord (s : State) (nbits w : Nat) : State := s.placeWindow (tableCells nbits w)

end Sys2Proof.Machine
end

