-- ==== Sys2Proof/Laws/PerInstr.lean ====
section
/-! SUPPORT. Families of statements about instructions as syntax, one lemma per constructor. -/

namespace Sys2Proof.Laws

/-! ### Well-formedness says that every cell of the encoding fits (R60) -/

namespace EncodedCellsFit

def Statement (i : Instr) : Prop := ∀ W, i.wellFormed W = true ↔ ∀ c ∈ encode i, Word.Fits W c

theorem add (a b d : Nat) : Statement (.add a b d) := fun W => by
  simp [Instr.wellFormed, encode, and_assoc]

theorem mul (a b d : Nat) : Statement (.mul a b d) := fun W => by
  simp [Instr.wellFormed, encode, and_assoc]

theorem hlt : Statement .hlt := fun W => by
  simp [Instr.wellFormed, encode]

end EncodedCellsFit

/-! ### The encoding has the instruction's length and starts with its opcode (R60, R65) -/

namespace EncodingShape

def Statement (i : Instr) : Prop := (encode i).length = i.length ∧ (encode i).head? = some i.opcode

theorem add (a b d : Nat) : Statement (.add a b d) := ⟨rfl, rfl⟩

theorem mul (a b d : Nat) : Statement (.mul a b d) := ⟨rfl, rfl⟩

theorem hlt : Statement .hlt := ⟨rfl, rfl⟩

end EncodingShape

end Sys2Proof.Laws
end

