-- ==== Sys2Proof/Safety.lean ====
section
/-! DEFINITION. The terms claims use: the invariant of the block, several steps, a pending transaction, a safe run, and a
trial that hits its target. -/

namespace Sys2Proof.Machine

/-- What holds in every state the block can be in between two steps. -/
structure State.Inv (s : State) : Prop where
  /-- `W >= 1` (R8). -/
  config : s.cfg.wf
  /-- Every cell of the core's image is below `2^W` (R23). -/
  memory : s.mem.wf s.cfg.width = true
  /-- Every cell of the base image is below `2^W` (R30). -/
  baseImage : s.base.wf s.cfg.width = true
  /-- `ip` is a multiple of 4 (R22). -/
  aligned : s.ip % 4 = 0
  /-- `ip` is at most `L`: only an instruction with all four cells in the image advances it (R93). -/
  inReach : s.ip ≤ s.mem.length
  /-- The fault register holds a record exactly while `status` is `Faulted` (R25). -/
  faultHeld : s.fault.isSome = true ↔ s.status = .faulted
  /-- Without a step limit the step counter is not used (R26). -/
  stepsUnused : s.cfg.stepLimit = none → s.steps = 0
  /-- With a step limit `N` at most `N` attempts are counted (R88). -/
  stepsBounded : ∀ n, s.cfg.stepLimit = some n → s.steps ≤ n
  /-- The pair is in the search space (R141). -/
  nounRange : s.noun ≤ 99
  verbRange : s.verb ≤ 99
  /-- `result` holds the current pair exactly when `sstatus` is `Found` (R30). -/
  resultFound : s.sstatus = .found → s.result = some (s.noun, s.verb)
  resultNone : s.sstatus ≠ .found → s.result = none
  /-- `sstatus` is `Searching` exactly while a search is in progress (R155). -/
  searching : s.sstatus = .searching ↔ s.activity = .search ∨ s.activity = .calibrate
  /-- A search has `W >= 7` (R143). -/
  searchWidth : s.sstatus = .searching → 7 ≤ s.cfg.width
  /-- A run belongs to a transaction in progress (R160). -/
  runOwned : s.status = .running → s.activity ≠ .idle
  /-- `RUN` and `DIRECT` are in progress only from the start of their run (R91, R163). -/
  runStarted : s.activity = .run ∨ s.activity = .direct → s.status ≠ .idle
  /-- A transaction waits only while none is in progress (R167). -/
  oneTransaction : s.request.isSome = true → s.activity = .idle

/-- `k` steps lead from `s` to `t`, each answering a next state. -/
def stepsTo : Nat → State → State → Prop
  | 0, s, t => s = t
  | k + 1, s, t => ∃ u, step s = .next u ∧ stepsTo k u t

/-- The block is between transactions and the host has handed over `r` (R160). -/
def State.Pending (s : State) (r : Request) : Prop :=
  s.status ≠ .running ∧ s.activity = .idle ∧ s.request = some r

/-- The block has finished a transaction with result `r` and none is in progress or waiting (R160). -/
def State.Finished (s : State) (r : Reply) : Prop :=
  s.status ≠ .running ∧ s.activity = .idle ∧ s.request = none ∧ s.reply = some r

/-- A safe run: it ends successfully, by HALT (R92). -/
def SafeRun (c : Config) (m : Memory) : Prop := (run c m).status = .halted

/-- The trial `(noun, verb)` on a copy of `base` hits the target: both patch writes succeed, the run halts without a
fault, and cell 0 of its final image is the target (R140, R144, R146). -/
def TrialHits (c : Config) (base : Memory) (target noun verb : Nat) : Prop :=
  ∃ m, base.copy.patch noun verb = .ok m ∧ SafeRun c m ∧ (run c m).mem.read 0 = .ok target

/-- `(n', v')` comes before `(n, v)` in row-major order (R141, R149). -/
def PairBefore (n' v' n v : Nat) : Prop := n' < n ∨ (n' = n ∧ v' < v)

/-- A cell's value, 0 beyond the image; used below only where an earlier entry of the list has ruled that out. -/
def State.cell (s : State) (addr : Nat) : Nat := s.mem.cells.getD addr 0

/-- The first raise a step reaches, written flat from the list of R89 and not from the step's own operations. `exact` is
the exact result of R103. -/
def State.firstRaise (s : State) : Option FaultRecord :=
  let L := s.mem.length
  let op := s.cell s.ip
  let a := s.cell (s.ip + 1)
  let b := s.cell (s.ip + 2)
  let d := s.cell (s.ip + 3)
  let exact := if op = 1 then s.cell a + s.cell b else s.cell a * s.cell b
  if s.cfg.stepLimit.any (fun n => decide (n ≤ s.steps)) then some (.stepLimitExceeded (s.cfg.stepLimit.getD 0))
  else if L ≤ s.ip then some (.outOfBounds s.ip L)
  else if op = 99 then none
  else if s.cfg.decodeOrder = .opcodeFirst ∧ op ≠ 1 ∧ op ≠ 2 then some (.unknownOpcode op)
  else if L ≤ s.ip + 1 then some (.outOfBounds (s.ip + 1) L)
  else if L ≤ s.ip + 2 then some (.outOfBounds (s.ip + 2) L)
  else if L ≤ s.ip + 3 then some (.outOfBounds (s.ip + 3) L)
  else if op ≠ 1 ∧ op ≠ 2 then some (.unknownOpcode op)
  else if L ≤ a then some (.outOfBounds a L)
  else if L ≤ b then some (.outOfBounds b L)
  else if L ≤ d then some (.outOfBounds d L)
  else if s.cfg.overflowMode = .fault ∧ 2 ^ s.cfg.width ≤ exact then some (.arithmeticOverflow op (s.cell a) (s.cell b))
  else none

end Sys2Proof.Machine
end

