-- ==== Sys2Proof/Certificates/Slice0/Obligations.lean ====
section
/-! DEFINITION. The statements for the provers. `u` with `s.stepLimitCheck = .ok u` is always the state after the
step-limit check of R88: `s` itself without a limit, `s` with the attempt counted with one. -/

open Sys2Proof Sys2Proof.Machine

/-! ### Memory (20_memory.md) -/

/-- R42: a read below `L` returns the cell, a read from `L` on raises `OutOfBounds(addr, L)`. -/
def Obligations.ReadReturnsTheCellOrRaisesOutOfBounds : Prop :=
  ∀ (m : Memory) (addr : Nat),
    (∀ h : addr < m.cells.length, m.read addr = .ok m.cells[addr]) ∧
    (m.cells.length ≤ addr → m.read addr = .error (.outOfBounds addr m.cells.length))

/-- R43: a write below `L` changes exactly cell `addr`, a write from `L` on raises `OutOfBounds(addr, L)`. -/
def Obligations.WriteChangesExactlyOneCellOrRaisesOutOfBounds : Prop :=
  ∀ (m : Memory) (addr : Nat) (v : Nat),
    (addr < m.length → ∃ m', m.write addr v = .ok m' ∧ m'.length = m.length ∧ m'.read addr = .ok v ∧
      ∀ a, a ≠ addr → m'.read a = m.read a) ∧
    (m.length ≤ addr → m.write addr v = .error (.outOfBounds addr m.length))

/-! ### Encoding (30_encoding.md) -/

/-- R69: the decode function, case by case; and running what it answers: the instruction, or `UnknownOpcode(op)` for
`UNKNOWN(op)`. -/
def Obligations.DecodeFunctionAndWhatItsAnswersDo : Prop :=
  (∀ c1 c2 c3 : Nat, decodeFields 99 c1 c2 c3 = .ok .hlt ∧ decodeFields 1 c1 c2 c3 = .ok (.add c1 c2 c3) ∧
    decodeFields 2 c1 c2 c3 = .ok (.mul c1 c2 c3)) ∧
  (∀ op c1 c2 c3 : Nat, op ≠ 99 → op ≠ 1 → op ≠ 2 → decodeFields op c1 c2 c3 = .error (.unknownOpcode op)) ∧
  (∀ (s u : State) (op c1 c2 c3 : Nat), s.status = .running → s.stepLimitCheck = .ok u →
    s.mem.read s.ip = .ok op → s.mem.read (s.ip + 1) = .ok c1 → s.mem.read (s.ip + 2) = .ok c2 →
    s.mem.read (s.ip + 3) = .ok c3 →
      (∀ i, decodeFields op c1 c2 c3 = .ok i → step s = exec i u) ∧
      (∀ e, decodeFields op c1 c2 c3 = .error e → step s = .next (u.raise (.unknownOpcode op))))

/-- A few words written out from the encodings of R60 and R65 decode to their instructions, and `1101` is no ADD. -/
def Obligations.SpecWordsDecodeToTheirInstructions : Prop :=
  decode [1, 9, 10, 3] = .ok (.add 9 10 3, []) ∧
  decode [2, 3, 11, 0, 99] = .ok (.mul 3 11 0, [99]) ∧
  decode [99, 30, 40, 50] = .ok (.hlt, [30, 40, 50]) ∧
  decode [99] = .ok (.hlt, []) ∧
  decode [1101, 0, 0, 0] = .error (.unknownOpcode 1101) ∧
  decode [1, 0] = .error (.missingFields 1 1)

/-- Decode and encode agree: whatever cells follow, the cells of an instruction decode to it and to what follows. -/
def Obligations.DecodeInvertsEncode : Prop :=
  ∀ (i : Instr) (rest : List Nat), decode (encode i ++ rest) = .ok (i, rest)

/-- The other direction: cells that decode to an instruction are its encoding and the rest, so that no instruction has a
second encoding (30_encoding.md section 2). -/
def Obligations.DecodeAcceptsOnlyEncodings : Prop :=
  ∀ (cells rest : List Nat) (i : Instr), decode cells = .ok (i, rest) → cells = encode i ++ rest

/-- Through the numbering of the opcode table's words, whose 64-bit cells are the model's choice (log 10): every
instruction whose fields fit comes back. -/
def Obligations.TableWordDecodesBack : Prop :=
  ∀ i : Instr, i.wellFormed tableCellBits = true → decodeTableWord (4 * tableCellBits) (encodeTableWord i) = some i

/-- A program survives its whole way in: the text of its cells, comma-separated decimal numerals (R71), loads to an image
whose cells decode to the program. -/
def Obligations.ProgramTextDecodesToItsInstructions : Prop :=
  ∀ (c : Config) (is : List Instr), is ≠ [] → (∀ i ∈ is, i.wellFormed c.width = true) →
    ∃ m, load c (programText (encodeProgram is)) = .ok m ∧ decodeProgram is.length m.cells = .ok is

/-! ### The instructions (41_arithmetic.md, 42_control.md) -/

/-- ADD completes: with both sources readable and the destination in the image it writes the sum and advances by 4,
wherever the exact sum is a cell value, and under `Wrap` it writes the sum mod `2^W`; nothing else changes. The overflow
rule is the spec's decision D3. -/
def Obligations.AddWritesTheSumAndAdvances : Prop :=
  ∀ (s : State) (a b d x y : Nat), s.mem.read a = .ok x → s.mem.read b = .ok y → d < s.mem.length →
    (x + y < 2 ^ s.cfg.width →
      exec (.add a b d) s = .next { s with mem := { cells := s.mem.cells.set d (x + y) }, ip := s.ip + 4 }) ∧
    (s.cfg.overflowMode = .wrap →
      exec (.add a b d) s =
        .next { s with mem := { cells := s.mem.cells.set d ((x + y) % 2 ^ s.cfg.width) }, ip := s.ip + 4 })

/-- MUL completes, as ADD does with the product. The overflow rule is the spec's decision D3. -/
def Obligations.MulWritesTheProductAndAdvances : Prop :=
  ∀ (s : State) (a b d x y : Nat), s.mem.read a = .ok x → s.mem.read b = .ok y → d < s.mem.length →
    (x * y < 2 ^ s.cfg.width →
      exec (.mul a b d) s = .next { s with mem := { cells := s.mem.cells.set d (x * y) }, ip := s.ip + 4 }) ∧
    (s.cfg.overflowMode = .wrap →
      exec (.mul a b d) s =
        .next { s with mem := { cells := s.mem.cells.set d ((x * y) % 2 ^ s.cfg.width) }, ip := s.ip + 4 })

/-- R110: HALT is the single cell 99; it sets `status` to `Halted`, leaves `ip` and all else, and a step that fetches 99
halts wherever it stands, the three cells after it unread and perhaps absent. No other opcode halts. -/
def Obligations.HaltStopsAndLeavesTheRest : Prop :=
  encode .hlt = [99] ∧
  (∀ s : State, exec .hlt s = .next { s with status := .halted }) ∧
  (∀ s u : State, s.status = .running → s.stepLimitCheck = .ok u → s.mem.read s.ip = .ok 99 →
    step s = .next { u with status := .halted }) ∧
  (∀ s t : State, s.status = .running → step s = .next t → t.status = .halted → s.mem.read s.ip = .ok 99 ∧ t.ip = s.ip)

/-- Where ADD and MUL trap: the first source, the second, the destination, then the overflow, in the order of the spec's
decision D5 with the overflow rule of D3. -/
def Obligations.ArithmeticTrapsInOrder : Prop :=
  ∀ (s : State) (i : Instr) (a b d op : Nat) (f : Nat → Nat → Nat),
    (i = .add a b d ∧ op = 1 ∧ f = fun x y => x + y) ∨ (i = .mul a b d ∧ op = 2 ∧ f = fun x y => x * y) →
    (s.mem.length ≤ a → exec i s = .next (s.raise (.outOfBounds a s.mem.length))) ∧
    (a < s.mem.length → s.mem.length ≤ b → exec i s = .next (s.raise (.outOfBounds b s.mem.length))) ∧
    (a < s.mem.length → b < s.mem.length → s.mem.length ≤ d →
      exec i s = .next (s.raise (.outOfBounds d s.mem.length))) ∧
    (∀ x y, s.mem.read a = .ok x → s.mem.read b = .ok y → d < s.mem.length → 2 ^ s.cfg.width ≤ f x y →
      s.cfg.overflowMode = .fault → exec i s = .next (s.raise (.arithmeticOverflow op x y)))

/-- R105, the frame of ADD and MUL: where they complete they write exactly two things, cell `d` and `ip`. Every other
cell reads as before, the image keeps its length, and no other register changes. -/
def Obligations.ArithmeticWritesItsCellAndIpOnly : Prop :=
  ∀ (s t : State) (i : Instr) (a b d : Nat), i = .add a b d ∨ i = .mul a b d → s.status = .running →
    exec i s = .next t → t.status = .running →
      (∀ addr, addr ≠ d → t.mem.read addr = s.mem.read addr) ∧ t.mem.length = s.mem.length ∧ t.ip = s.ip + 4 ∧
      t = { s with mem := t.mem, ip := t.ip }

/-- The frame of ADD and MUL where they trap: only `status` and `fault` change, `ip` and every cell stay as they were
(41_arithmetic.md section 2; that `ip` stays is the spec's decision D9). -/
def Obligations.ArithmeticTrapLeavesMemoryAndIp : Prop :=
  ∀ (s t : State) (i : Instr) (a b d : Nat), i = .add a b d ∨ i = .mul a b d → s.status = .running →
    exec i s = .next t → t.status ≠ .running →
      t.status = .faulted ∧ t.fault.isSome = true ∧ (∀ addr, t.mem.read addr = s.mem.read addr) ∧
      t = { s with status := t.status, fault := t.fault }

/-! ### One step (40_execution_cycle.md) -/

/-- A step runs the decoded instruction: where the cells from `ip` on decode to `i` and a run is going on, the step is
`exec i` in the state with the attempt counted. -/
def Obligations.StepRunsTheDecodedInstruction : Prop :=
  ∀ (s u : State) (i : Instr) (rest : List Nat), s.status = .running → s.stepLimitCheck = .ok u →
    decode (s.mem.cells.drop s.ip) = .ok (i, rest) → step s = exec i u

/-- R81: with `ip >= L` the step raises `OutOfBounds(ip, L)` and does nothing else. -/
def Obligations.FetchBeyondTheImageRaisesOutOfBounds : Prop :=
  ∀ s u : State, s.status = .running → s.stepLimitCheck = .ok u → s.mem.length ≤ s.ip →
    step s = .next (u.raise (.outOfBounds s.ip s.mem.length))

/-- R66: an illegal opcode raises `UnknownOpcode` with the value read, except that under `OperandsFirst` one in the last
three cells of the image reports the bounds fault of its first missing field, whose address is `L`. -/
def Obligations.IllegalOpcodesRaise : Prop :=
  ∀ (s u : State) (op : Nat), s.status = .running → s.stepLimitCheck = .ok u → s.mem.read s.ip = .ok op →
    op ≠ 1 → op ≠ 2 → op ≠ 99 →
      (s.cfg.decodeOrder = .opcodeFirst ∨ s.ip + 3 < s.mem.length →
        step s = .next (u.raise (.unknownOpcode op))) ∧
      (s.cfg.decodeOrder = .operandsFirst → s.mem.length ≤ s.ip + 3 →
        step s = .next (u.raise (.outOfBounds s.mem.length s.mem.length)))

/-- Which fault a step reports: the first raise of the flat list `State.firstRaise`, and none where no entry of it holds
(40_execution_cycle.md section 1; the order is the spec's decisions D4 and D5). -/
def Obligations.StepReportsTheFirstRaise : Prop :=
  ∀ s : State, s.status = .running →
    (∀ f, s.firstRaise = some f → ∃ t, step s = .next t ∧ t.status = .faulted ∧ t.fault = some f) ∧
    (s.firstRaise = none → ∃ t, step s = .next t ∧ t.status ≠ .faulted ∧ t.fault = s.fault)

/-- The step-limit check: without a limit the counter is untouched; with `N`, an attempt after `N` of them is refused
before it fetches, and every other attempt is counted (40_execution_cycle.md section 1; the counting rule is the spec's
decision D7). -/
def Obligations.StepLimitCountsAttempts : Prop :=
  ∀ s t : State, s.status = .running → step s = .next t →
    (s.cfg.stepLimit = none → t.steps = s.steps) ∧
    (∀ n, s.cfg.stepLimit = some n → s.steps < n → t.steps = s.steps + 1) ∧
    (∀ n, s.cfg.stepLimit = some n → n ≤ s.steps → t = s.raise (.stepLimitExceeded n))

/-- R111: the only change of `ip` is the advance by 4 of ADD and MUL; HALT stops; everything else of a run leaves `ip`. -/
def Obligations.IpOnlyEverAdvancesByFour : Prop :=
  ∀ s t : State, s.status = .running → step s = .next t →
    (t.ip = s.ip + 4 ∧ t.status = .running ∧ (s.mem.read s.ip = .ok 1 ∨ s.mem.read s.ip = .ok 2)) ∨
    (t.ip = s.ip ∧ t.status = .halted ∧ s.mem.read s.ip = .ok 99) ∨
    (t.ip = s.ip ∧ t.status = .faulted)

/-- Self-modifying code: an ADD or MUL that writes 99 over the next opcode cell, exactly or under `Wrap`, completes, and
the next step, where the step limit lets it pass, halts there, whatever stood there before (20_memory.md section 3,
42_control.md section 1; the overflow rule is the spec's decision D3, the step limit its decision D7). -/
def Obligations.WrittenHaltStopsTheNextStep : Prop :=
  ∀ (s u : State) (op a b x y exact : Nat), s.status = .running → s.stepLimitCheck = .ok u →
    s.mem.read s.ip = .ok op → s.mem.read (s.ip + 1) = .ok a → s.mem.read (s.ip + 2) = .ok b →
    s.mem.read (s.ip + 3) = .ok (s.ip + 4) → s.ip + 4 < s.mem.length →
    s.mem.read a = .ok x → s.mem.read b = .ok y → (op = 1 ∧ exact = x + y) ∨ (op = 2 ∧ exact = x * y) →
    (exact = 99 ∧ 99 < 2 ^ s.cfg.width) ∨ (s.cfg.overflowMode = .wrap ∧ exact % 2 ^ s.cfg.width = 99) →
      ∃ t, step s = .next t ∧ t.ip = s.ip + 4 ∧ t.mem.read (s.ip + 4) = .ok 99 ∧
        ∀ v, t.stepLimitCheck = .ok v → step t = .next { v with status := .halted }

/-- `withFetchWord`, the model's own loading of one instruction (log 9, log 10): the very next step runs exactly that
instruction. -/
def Obligations.FetchWordIsRunByTheNextStep : Prop :=
  ∀ (s u : State) (i : Instr), s.cfg.width = tableCellBits → i.wellFormed tableCellBits = true →
    (s.withFetchWord (4 * tableCellBits) (encodeTableWord i)).stepLimitCheck = .ok u →
      step (s.withFetchWord (4 * tableCellBits) (encodeTableWord i)) = exec i u

/-! ### Runs (40_execution_cycle.md section 2) -/

/-- A run starts `Running` at 0 with no fault and no attempt counted, on the image given: as `RUN` and `DIRECT` start it,
and as the scheduler starts a trial on its patched copy (40_execution_cycle.md section 2). That the start, with the load
and the patch before it, is the very next step is the model's cut into steps (log 6), and the form of the handover is the
model's (log 5). -/
def Obligations.RunStartsAtZero : Prop :=
  (∀ (s : State) (m : Memory), s.Pending (.run m) → m.wf s.cfg.width = true →
    ∃ t, step s = .next t ∧ t.status = .running ∧ t.ip = 0 ∧ t.fault = none ∧ t.steps = 0 ∧ t.mem = m) ∧
  (∀ (s : State) (text : Text) (noun verb : Nat) (m m' : Memory), s.Pending (.direct text noun verb) →
    noun < 2 ^ s.cfg.width → verb < 2 ^ s.cfg.width → load s.cfg text = .ok m → m.patch noun verb = .ok m' →
    ∃ t, step s = .next t ∧ t.status = .running ∧ t.ip = 0 ∧ t.fault = none ∧ t.steps = 0 ∧ t.mem = m') ∧
  (∀ (s : State) (m : Memory), s.status = .idle → s.activity = .search ∨ s.activity = .calibrate →
    s.base.copy.patch s.noun s.verb = .ok m →
    ∃ t, step s = .next t ∧ t.status = .running ∧ t.ip = 0 ∧ t.fault = none ∧ t.steps = 0 ∧ t.mem = m)

/-- Every run ends: after `L / 4 + 1` attempts it has halted or faulted, and more attempts change nothing
(40_execution_cycle.md section 2). -/
def Obligations.EveryRunEndsWithinItsBound : Prop :=
  ∀ (s : State) (m : Memory) (k : Nat), m.length / 4 + 1 ≤ k →
    runLoop k (s.startRun m) = runOn s m ∧ ((runOn s m).status = .halted ∨ (runOn s m).status = .faulted)

/-- A step limit of at least `L / 4 + 1` never fires: the run ends as it does without a limit (40_execution_cycle.md
section 2; the limit is the spec's decision D7). -/
def Obligations.LargeStepLimitNeverFires : Prop :=
  ∀ (c : Config) (m : Memory) (n : Nat), m.length / 4 + 1 ≤ n →
    (run { c with stepLimit := some n } m).runReply = (run { c with stepLimit := none } m).runReply ∧
    ∀ k, (run { c with stepLimit := some n } m).fault ≠ some (.stepLimitExceeded k)

/-- A run that halts ends on the cell 99 it fetched, at a multiple of 4 inside the image; a run that faults ends with a
record, at a multiple of 4 not beyond `L` (40_execution_cycle.md section 2; `ip` after a fault is the spec's
decision D9). -/
def Obligations.RunEndsWhereItsLastStepStood : Prop :=
  ∀ (c : Config) (m : Memory),
    (run c m).ip % 4 = 0 ∧ (run c m).ip ≤ m.length ∧
    (SafeRun c m → (run c m).mem.read (run c m).ip = .ok 99 ∧ (run c m).fault = none) ∧
    (¬ SafeRun c m → (run c m).status = .faulted ∧ (run c m).fault.isSome = true)

/-- R23: the image a run is given keeps its length `L`, and its cells stay below `2^W`, at every point of the run. -/
def Obligations.RunKeepsLengthAndCellRange : Prop :=
  ∀ (s : State) (m : Memory) (k : Nat), m.wf s.cfg.width = true →
    (runLoop k (s.startRun m)).mem.length = m.length ∧ (runLoop k (s.startRun m)).mem.wf s.cfg.width = true

/-- `DECODE_ORDER` changes at most the fault a run reports: status, `ip` and image are the same, and where the faults
differ one order reports the illegal opcode and the other the bounds fault at `L` (40_execution_cycle.md section 1; the
parameter is the spec's decision D4). -/
def Obligations.DecodeOrderChangesTheFaultKindOnly : Prop :=
  ∀ (c : Config) (m : Memory),
    let s := run { c with decodeOrder := .operandsFirst } m
    let t := run { c with decodeOrder := .opcodeFirst } m
    s.status = t.status ∧ s.ip = t.ip ∧ s.mem = t.mem ∧
      (s.fault = t.fault ∨
        (s.fault = some (.outOfBounds m.length m.length) ∧ ∃ op, t.fault = some (.unknownOpcode op)))

/-- A run depends on its image and the parameters alone: two blocks with the same parameters, whatever earlier runs and
searches left in them, go through the same core states (10_state.md section 3; the spec's decision D28). -/
def Obligations.NothingOfEarlierRunsSurvives : Prop :=
  ∀ (s s' : State) (m : Memory) (k : Nat), s.cfg = s'.cfg →
    (runLoop k (s.startRun m)).runReply = (runLoop k (s'.startRun m)).runReply ∧
    (runLoop k (s.startRun m)).steps = (runLoop k (s'.startRun m)).steps

/-! ### Faults, reset, invariants (60_exceptions.md, 70_reset_and_hazards.md, 10_state.md) -/

/-- A fault is precise: the faulting step changed no cell and no `ip`, a record is kept, and nothing else but the step
counter differs (60_exceptions.md section 1; that `ip` stays is the spec's decision D9). -/
def Obligations.FaultsArePrecise : Prop :=
  ∀ s t : State, s.status = .running → step s = .next t → t.status = .faulted →
    ∃ f, t = { s with status := .faulted, fault := some f, steps := t.steps }

/-- A halted or faulted run outside a search takes no further step of the core: the block's next step ends the
transaction and keeps every register of the core and its image (40_execution_cycle.md section 2; that the end of the
transaction is a step of its own, with a reply, is the model's choice, log 5 and log 6). -/
def Obligations.FinishedRunTakesNoFurtherStep : Prop :=
  ∀ s : State, s.status = .halted ∨ s.status = .faulted → s.activity = .run ∨ s.activity = .direct →
    ∃ t, step s = .next t ∧ t.activity = .idle ∧ t.reply.isSome = true ∧
      t = { s with activity := t.activity, reply := t.reply }

/-- The state before any transaction, as far as the spec gives its values (10_state.md section 3, 70_reset_and_hazards.md
section 1; the status names and the reset rule are the spec's decisions D8, D16, D28). -/
def Obligations.ResetStateIsAsTheSpecSays : Prop :=
  State.reset.status = .idle ∧ State.reset.fault = none ∧ State.reset.noun = 0 ∧ State.reset.verb = 0 ∧
  State.reset.sstatus = .idle ∧ State.reset.result = none ∧ State.reset.trial = none

/-- Starting a transaction forgets everything but the parameters (10_state.md section 3; the spec's decision D28, and
log 7 for the scheduler's registers at a `RUN`). -/
def Obligations.TransactionsStartFromTheParametersAlone : Prop :=
  ∀ (s s' : State) (r : Request), s.cfg = s'.cfg → s.Pending r → s'.Pending r → step s = step s'

/-- The invariant holds at reset. This rests on reset values that are the model's choice: `ip` 0 and the empty images
(log 4), and the interface fields (log 5); the spec calls `ip` unspecified there (10_state.md section 3). -/
def Obligations.InvariantHoldsAtReset : Prop := State.reset.Inv

/-- Every step keeps the invariant: cells below `2^W`, `ip` a multiple of 4 and at most `L`, a fault record exactly while
`Faulted`, the pair in range, `result` exactly while `Found`, and the rest of `State.Inv`. Its clauses are the spec's
derived rules and decisions (10_state.md), between runs the model's choice of the idle core (log 4, log 8, log 13) and, for
the interface fields, the model's (log 5). -/
def Obligations.EveryStepKeepsTheInvariant : Prop :=
  ∀ s t : State, s.Inv → step s = .next t → t.Inv

/-- The host's one move, the model's form of the handover (log 5): it keeps the invariant; on an idle block with nothing
pending it hands the transaction over and changes nothing else, so that the transaction is then pending; and it changes
nothing while a transaction waits or is in progress. -/
def Obligations.SubmittingKeepsTheInvariant : Prop :=
  ∀ (s : State) (r : Request), (s.Inv → (s.submit r).Inv) ∧
    (s.activity = .idle → s.request = none → s.submit r = { s with request := some r } ∧
      (s.status ≠ .running → (s.submit r).Pending r)) ∧
    (s.activity ≠ .idle ∨ s.request ≠ none → s.submit r = s)

/-- The block never stops inside a transaction: where a run is going on or a transaction is in progress, the step answers
a next state (40_execution_cycle.md section 2, 46_host_interface.md section 1; the stops are the model's own, log 3 and
log 11, and so are the interface fields, log 5). -/
def Obligations.NoStepStopsInsideATransaction : Prop :=
  ∀ s : State, s.Inv → s.status = .running ∨ s.activity ≠ .idle → ∃ t, step s = .next t

/-- The transitions of the core's `status`: a run goes on, halts or faults; nothing but a run start leads to `Running`,
and it starts at 0; no halted core becomes faulted and no faulted core halted (10_state.md section 1; the four names are
the spec's decision D8; that an idle core does not become `Faulted` where a load or a patch raises is the model's choice,
log 13). And no step changes the parameters (log 2). -/
def Obligations.StatusTransitions : Prop :=
  ∀ s t : State, step s = .next t →
    t.cfg = s.cfg ∧
    (s.status = .running → t.status = .running ∨ t.status = .halted ∨ t.status = .faulted) ∧
    (s.status ≠ .running → t.status = .running → t.ip = 0 ∧ t.fault = none ∧ t.steps = 0) ∧
    (s.status ≠ .running → t.status = .halted → s.status = .halted) ∧
    (s.status ≠ .running → t.status = .faulted → s.status = .faulted)

/-! ### The loader (44_loader.md) -/

/-- R127: the loaded image has one cell for each token of the first line, in order, and cell `i` holds the value of
token `i`; and the loader accepts whatever values the tokens have, opcodes or not. -/
def Obligations.LoadedCellsAreTheTokenValues : Prop :=
  ∀ (c : Config) (text : Text),
    (∀ m, load c text = .ok m →
      m.length = (splitCommas (firstLine text)).length ∧
      ∀ i, i < m.length → ∃ tok, (splitCommas (firstLine text))[i]? = some tok ∧
        parseToken c tok = .ok (decimalValue (dropPlus c (trim tok))) ∧
        m.read i = .ok (decimalValue (dropPlus c (trim tok)))) ∧
    ((∀ tok ∈ splitCommas (firstLine text), ∃ v, parseToken c tok = .ok v) → ∃ m, load c text = .ok m)

/-- A successful load of a line with `n` commas has `n + 1` cells, so at least one (44_loader.md section 2; that an empty
token is an error is the spec's decision D14). -/
def Obligations.LoadedLengthIsCommasPlusOne : Prop :=
  ∀ (c : Config) (text : Text) (m : Memory), load c text = .ok m →
    m.length = (firstLine text).countP isComma + 1 ∧ m.wf c.width = true

/-- A load fails exactly when some token is invalid, and reports the first of them, trimmed (44_loader.md section 2; the
spec's decision D13). -/
def Obligations.LoadReportsTheFirstInvalidToken : Prop :=
  ∀ (c : Config) (text : Text) (f : FaultRecord),
    load c text = .error f ↔
      ∃ before tok after, splitCommas (firstLine text) = before ++ tok :: after ∧
        (∀ t ∈ before, ∃ v, parseToken c t = .ok v) ∧ parseToken c tok = .error f ∧ f = .parseError (trim tok)

/-- Which tokens are valid, and their values: digits only, at least one, a value below `2^W`; one leading `+` where the
loader accepts it (44_loader.md section 2; the spec's decisions D12, D13, D2). -/
def Obligations.ValidTokensAreDecimalNumerals : Prop :=
  ∀ (c : Config) (tok : Text) (v : Nat),
    parseToken c tok = .ok v ↔
      ∃ digits, digits ≠ [] ∧ (∀ x ∈ digits, 48 ≤ x.toNat ∧ x.toNat ≤ 57) ∧
        (trim tok = digits ∨ (c.loaderAcceptsPlus = true ∧ trim tok = '+' :: digits)) ∧
        v = digits.foldl (fun acc x => 10 * acc + (x.toNat - 48)) 0 ∧ v < 2 ^ c.width

/-- Whitespace is the characters with codes 9 to 13 and 32 and no other (44_loader.md section 2; the set is the spec's
decision D12): trimming takes all of it from both ends of a token and takes no other character, and around a token it
changes neither the token's value nor the error it gives. -/
def Obligations.WhitespaceAroundATokenIsIgnored : Prop :=
  ∀ (c : Config) (left tok right : Text),
    (∀ x ∈ left ++ right, (9 ≤ x.toNat ∧ x.toNat ≤ 13) ∨ x.toNat = 32) →
      parseToken c (left ++ tok ++ right) = parseToken c tok ∧
      ((∀ x, tok.head? = some x ∨ tok.getLast? = some x → ¬ ((9 ≤ x.toNat ∧ x.toNat ≤ 13) ∨ x.toNat = 32)) →
        trim (left ++ tok ++ right) = tok)

/-- The text of any cells loads back to exactly those cells, and what follows the first line feed is ignored
(44_loader.md sections 1 and 2; the one-line rule is the spec's decision D11). -/
def Obligations.TextOfCellsLoadsBack : Prop :=
  ∀ (c : Config) (cells : List Nat) (more : Text), cells ≠ [] → (∀ v ∈ cells, v < 2 ^ c.width) →
    load c (programText cells) = .ok { cells := cells } ∧
    load c (programText cells ++ Char.ofNat 10 :: more) = .ok { cells := cells }

/-! ### The search scheduler (45_search_scheduler.md) -/

/-- The search returns the first pair of `[0, 99] × [0, 99]` in row-major order whose trial (duplicate, patch, run
to halt) leaves the target at address 0, and `NotFound` exactly when no pair does (45_search_scheduler.md sections 1 and
3). That a failing patch or a fault is no hit is the spec's decisions D18 and D15 (log 12). -/
def Obligations.SearchReturnsTheFirstMatch : Prop :=
  ∀ (c : Config) (base : Memory) (target : Nat),
    (∀ n v, search c base target = some (n, v) ↔
      n ≤ 99 ∧ v ≤ 99 ∧ TrialHits c base target n v ∧
      ∀ n' v', n' ≤ 99 → v' ≤ 99 → PairBefore n' v' n v → ¬ TrialHits c base target n' v') ∧
    (search c base target = none ↔ ∀ n v, n ≤ 99 → v ≤ 99 → ¬ TrialHits c base target n v)

/-- R142: the search never writes its base image, and each trial starts from a full copy of it, which has the same cells
(20_memory.md section 1). The target stays as well. -/
def Obligations.BaseImageIsNeverWritten : Prop :=
  (∀ m : Memory, m.copy.length = m.length ∧ m.copy.cells = m.cells) ∧
  ∀ s t : State, s.activity = .search ∨ s.activity = .calibrate → step s = .next t →
    t.base = s.base ∧ t.target = s.target ∧
    (s.status = .idle → t.status = .running → s.base.copy.patch s.noun s.verb = .ok t.mem)

/-- A trial that is no match, by a fault in its patch or in its run or by halting without the target at address 0, does
not end the search: it goes on with the next pair, or ends `NotFound` after the last one (45_search_scheduler.md section 2;
the spec's decisions D15, D18 and D19). That the core is then `Idle`, with no fault record after a run and with
its fault register as it was where the patch failed, is the model's choice (log 8, log 13), and so are that this is one step
(log 6) and the fields `activity` and `reply` (log 5). -/
def Obligations.TrialFaultsAreContained : Prop :=
  ∀ s : State, s.activity = .search ∨ s.activity = .calibrate →
    s.status = .faulted ∨ (s.status = .halted ∧ s.mem.read 0 ≠ .ok s.target) ∨
      (s.status = .idle ∧ s.base.length < 3) →
      ∃ t, step s = .next t ∧ t.status = .idle ∧
        (s.status ≠ .idle → t.fault = none) ∧ (s.status = .idle → t.fault = s.fault) ∧
        t.result = (if s.noun < 99 ∨ s.verb < 99 then s.result else none) ∧
        (s.verb < 99 → t.noun = s.noun ∧ t.verb = s.verb + 1 ∧ t.sstatus = s.sstatus) ∧
        (99 ≤ s.verb → s.noun < 99 → t.noun = s.noun + 1 ∧ t.verb = 0 ∧ t.sstatus = s.sstatus) ∧
        (99 ≤ s.verb → 99 ≤ s.noun → t.sstatus = .notFound ∧ t.reply = some .notFound ∧ t.activity = .idle)

/-- The early exit: a trial that halted with the target at address 0 ends the search at once with its pair
(45_search_scheduler.md section 2; the spec's decision D17). That judging a trial is one step is the model's choice
(log 6), and so are the fields `activity` and `reply` (log 5). -/
def Obligations.MatchEndsTheSearchAtOnce : Prop :=
  ∀ s : State, s.activity = .search ∨ s.activity = .calibrate → s.status = .halted →
    s.mem.read 0 = .ok s.target →
      ∃ t, step s = .next t ∧ t.sstatus = .found ∧ t.result = some (s.noun, s.verb) ∧ t.activity = .idle ∧
        (s.activity = .search → t.reply = some (.found s.noun s.verb)) ∧
        (s.activity = .calibrate → t.reply = some (.foundChecksum s.noun s.verb (100 * s.noun + s.verb)))

/-- Small and unreachable cases: a base image of fewer than three cells, whose patch fails, which is no match by the spec's
decisions D18 and D15 (log 12), or a target no cell can hold, finds nothing (45_search_scheduler.md section 3). -/
def Obligations.UnreachableSearchesFindNothing : Prop :=
  ∀ (c : Config) (base : Memory) (target : Nat),
    (base.length < 3 → search c base target = none) ∧
    (base.wf c.width = true → 7 ≤ c.width → 2 ^ c.width ≤ target → search c base target = none)

/-- `DECODE_ORDER` never changes the result of a search (45_search_scheduler.md section 3). -/
def Obligations.SearchIgnoresDecodeOrder : Prop :=
  ∀ (c : Config) (o : DecodeOrder) (base : Memory) (target : Nat),
    search { c with decodeOrder := o } base target = search c base target

/-- The pairs are tried in row-major order: the pair's rank never falls and grows by at most one in a step
(45_search_scheduler.md sections 1 and 3; what one step is, is the model's choice, log 6). The invariant rules out pairs
beyond 99. -/
def Obligations.PairsAdvanceOneAtATime : Prop :=
  ∀ s t : State, s.Inv → s.sstatus = .searching → step s = .next t →
    (t.noun * 100 + t.verb = s.noun * 100 + s.verb ∨ t.noun * 100 + t.verb = s.noun * 100 + s.verb + 1) ∧
    t.noun * 100 + t.verb ≤ 9999

/-- The transitions of `sstatus`: out of `Searching` only to `Found` or `NotFound`, and any other change only where a new
transaction starts (45_search_scheduler.md section 3; the spec's decision D16; the fields that hold the transaction are
the model's, log 5, and that any start resets `sstatus` is its reading, log 7). -/
def Obligations.SearchStatusTransitions : Prop :=
  ∀ s t : State, s.Inv → step s = .next t →
    (s.sstatus = .searching → t.sstatus = .searching ∨ t.sstatus = .found ∨ t.sstatus = .notFound) ∧
    (s.sstatus ≠ .searching → t.sstatus ≠ s.sstatus → s.activity = .idle ∧ s.request.isSome = true)

/-! ### The transactions (46_host_interface.md) -/

/-- `LOAD` ends with its image or its error (46_host_interface.md section 1). That it does so in one step of the block is
the model's choice (log 6), and so is the form of the handover and of the reply (log 5). -/
def Obligations.LoadTransactionReachesItsResult : Prop :=
  ∀ (s : State) (text : Text), s.Pending (.load text) →
    ∃ t, step s = .next t ∧ t.Finished (perform s.cfg (.load text)) ∧ t.cfg = s.cfg

/-- `RUN`, step by step, reaches the observation the function `run` gives (46_host_interface.md section 1,
40_execution_cycle.md section 2). The bound `L / 4 + 3` on the block's own steps, two more than the attempts, is the
model's cut into steps (log 6), and the handover and the reply are the model's (log 5). -/
def Obligations.RunTransactionReachesItsResult : Prop :=
  ∀ (s : State) (m : Memory), s.Pending (.run m) → m.wf s.cfg.width = true →
    ∃ k t, k ≤ m.length / 4 + 3 ∧ stepsTo k s t ∧ t.Finished (.ran (run s.cfg m).status (run s.cfg m).fault
      (run s.cfg m).ip (run s.cfg m).mem) ∧ t.cfg = s.cfg

/-- `DIRECT`, step by step, reaches the result of the function `direct` (46_host_interface.md section 2), for patch values
that are cell values, and whatever they are where the text does not load. The bound on the block's own steps is the model's
cut into steps (log 6), and the handover and the reply are the model's (log 5). -/
def Obligations.DirectTransactionReachesItsResult : Prop :=
  ∀ (s : State) (text : Text) (noun verb : Nat), s.Pending (.direct text noun verb) →
    (noun < 2 ^ s.cfg.width ∧ verb < 2 ^ s.cfg.width) ∨ (∃ f, load s.cfg text = .error f) →
    ∃ k t, k ≤ text.length + 4 ∧ stepsTo k s t ∧ t.Finished (direct s.cfg text noun verb) ∧ t.cfg = s.cfg

/-- `SEARCH`, step by step over its 10,000 trials, reaches the result of the function `search`, and ends
(46_host_interface.md section 1, 45_search_scheduler.md section 3). The bound on the block's own steps is the model's cut
into steps (log 6), and the handover and the reply are the model's (log 5). -/
def Obligations.SearchTransactionReachesItsResult : Prop :=
  ∀ (s : State) (base : Memory) (target : Nat), s.Pending (.search base target) → base.wf s.cfg.width = true →
    7 ≤ s.cfg.width →
    ∃ k t, k ≤ 10000 * (base.length / 4 + 3) + 1 ∧ stepsTo k s t ∧
      t.Finished (perform s.cfg (.search base target)) ∧ t.cfg = s.cfg ∧ t.base = base ∧
      t.result = search s.cfg base target

/-- `CALIBRATE`, step by step, reaches the result of the function `calibrate` (46_host_interface.md section 2), with
`W >= 7`, and for any `W` where the text does not load, since the load comes first. The bound on the block's own steps is
the model's cut into steps (log 6), and the handover and the reply are the model's (log 5). -/
def Obligations.CalibrateTransactionReachesItsResult : Prop :=
  ∀ (s : State) (text : Text) (target : Nat), s.Pending (.calibrate text target) →
    7 ≤ s.cfg.width ∨ (∃ f, load s.cfg text = .error f) →
    ∃ k t, k ≤ 10000 * (text.length + 4) + 1 ∧ stepsTo k s t ∧ t.Finished (calibrate s.cfg text target) ∧
      t.cfg = s.cfg

/-- R164: in the direct run every error is fatal and is returned with its data: of the load, of the patch, of the run;
and a value is returned only after a run that halted, and it is cell 0. -/
def Obligations.DirectRunErrorsAreFatal : Prop :=
  ∀ (c : Config) (text : Text) (noun verb : Nat),
    (∀ f, load c text = .error f → direct c text noun verb = .error f) ∧
    (∀ m f, load c text = .ok m → m.patch noun verb = .error f → direct c text noun verb = .error f) ∧
    (∀ m m' f, load c text = .ok m → m.patch noun verb = .ok m' → (run c m').fault = some f →
      direct c text noun verb = .error f) ∧
    (∀ v, direct c text noun verb = .value v →
      ∃ m m', load c text = .ok m ∧ m.patch noun verb = .ok m' ∧ SafeRun c m' ∧ (run c m').mem.read 0 = .ok v)

/-- The checksum of a calibration is `100 * noun + verb`, at most 9999, and the pair is the one the search found
(45_search_scheduler.md section 3; the spec's decision D27). -/
def Obligations.CalibrationChecksumIsExact : Prop :=
  ∀ (c : Config) (text : Text) (target n v k : Nat), calibrate c text target = .foundChecksum n v k →
    k = 100 * n + v ∧ k ≤ 9999 ∧ ∃ base, load c text = .ok base ∧ search c base target = some (n, v)

/-- What the model refuses by name, and nothing else (log 11, the model's choice for arguments outside the domain the spec
gives a transaction): a `RUN` or `SEARCH` on cells that are no image, a `DIRECT` whose text loads and whose patch value is
no cell value, whatever the length of the image, a search with `W < 7`, that of a `CALIBRATE` once its text has
loaded. -/
def Obligations.OnlyInadmissibleTransactionsAreRefused : Prop :=
  ∀ (s : State) (r : Request), s.Pending r →
    ((∃ e, step s = .refused e) ↔ r.admitted s.cfg = false) ∧ ((∃ t, step s = .next t) ↔ r.admitted s.cfg = true)
end

