-- ==== Sys2Proof/Laws/State.lean ====
section
/-! SUPPORT. One lemma per field per update of the state, so that no proof unfolds a record update. -/

namespace Sys2Proof.Machine

/-! ### `State.raise` -/

@[simp] theorem State.raise_cfg (s : State) (f : FaultRecord) : (s.raise f).cfg = s.cfg := rfl
@[simp] theorem State.raise_status (s : State) (f : FaultRecord) : (s.raise f).status = .faulted := rfl
@[simp] theorem State.raise_ip (s : State) (f : FaultRecord) : (s.raise f).ip = s.ip := rfl
@[simp] theorem State.raise_fault (s : State) (f : FaultRecord) : (s.raise f).fault = some f := rfl
@[simp] theorem State.raise_steps (s : State) (f : FaultRecord) : (s.raise f).steps = s.steps := rfl
@[simp] theorem State.raise_mem (s : State) (f : FaultRecord) : (s.raise f).mem = s.mem := rfl
@[simp] theorem State.raise_base (s : State) (f : FaultRecord) : (s.raise f).base = s.base := rfl
@[simp] theorem State.raise_target (s : State) (f : FaultRecord) : (s.raise f).target = s.target := rfl
@[simp] theorem State.raise_noun (s : State) (f : FaultRecord) : (s.raise f).noun = s.noun := rfl
@[simp] theorem State.raise_verb (s : State) (f : FaultRecord) : (s.raise f).verb = s.verb := rfl
@[simp] theorem State.raise_sstatus (s : State) (f : FaultRecord) : (s.raise f).sstatus = s.sstatus := rfl
@[simp] theorem State.raise_result (s : State) (f : FaultRecord) : (s.raise f).result = s.result := rfl
@[simp] theorem State.raise_activity (s : State) (f : FaultRecord) : (s.raise f).activity = s.activity := rfl
@[simp] theorem State.raise_request (s : State) (f : FaultRecord) : (s.raise f).request = s.request := rfl
@[simp] theorem State.raise_reply (s : State) (f : FaultRecord) : (s.raise f).reply = s.reply := rfl

/-! ### `State.retire` -/

@[simp] theorem State.retire_cfg (s : State) (m : Memory) : (s.retire m).cfg = s.cfg := rfl
@[simp] theorem State.retire_status (s : State) (m : Memory) : (s.retire m).status = s.status := rfl
@[simp] theorem State.retire_ip (s : State) (m : Memory) : (s.retire m).ip = s.ip + 4 := rfl
@[simp] theorem State.retire_fault (s : State) (m : Memory) : (s.retire m).fault = s.fault := rfl
@[simp] theorem State.retire_steps (s : State) (m : Memory) : (s.retire m).steps = s.steps := rfl
@[simp] theorem State.retire_mem (s : State) (m : Memory) : (s.retire m).mem = m := rfl
@[simp] theorem State.retire_base (s : State) (m : Memory) : (s.retire m).base = s.base := rfl
@[simp] theorem State.retire_target (s : State) (m : Memory) : (s.retire m).target = s.target := rfl
@[simp] theorem State.retire_noun (s : State) (m : Memory) : (s.retire m).noun = s.noun := rfl
@[simp] theorem State.retire_verb (s : State) (m : Memory) : (s.retire m).verb = s.verb := rfl
@[simp] theorem State.retire_sstatus (s : State) (m : Memory) : (s.retire m).sstatus = s.sstatus := rfl
@[simp] theorem State.retire_result (s : State) (m : Memory) : (s.retire m).result = s.result := rfl
@[simp] theorem State.retire_activity (s : State) (m : Memory) : (s.retire m).activity = s.activity := rfl
@[simp] theorem State.retire_request (s : State) (m : Memory) : (s.retire m).request = s.request := rfl
@[simp] theorem State.retire_reply (s : State) (m : Memory) : (s.retire m).reply = s.reply := rfl

/-! ### `State.halt` -/

@[simp] theorem State.halt_cfg (s : State) : (s.halt).cfg = s.cfg := rfl
@[simp] theorem State.halt_status (s : State) : (s.halt).status = .halted := rfl
@[simp] theorem State.halt_ip (s : State) : (s.halt).ip = s.ip := rfl
@[simp] theorem State.halt_fault (s : State) : (s.halt).fault = s.fault := rfl
@[simp] theorem State.halt_steps (s : State) : (s.halt).steps = s.steps := rfl
@[simp] theorem State.halt_mem (s : State) : (s.halt).mem = s.mem := rfl
@[simp] theorem State.halt_base (s : State) : (s.halt).base = s.base := rfl
@[simp] theorem State.halt_target (s : State) : (s.halt).target = s.target := rfl
@[simp] theorem State.halt_noun (s : State) : (s.halt).noun = s.noun := rfl
@[simp] theorem State.halt_verb (s : State) : (s.halt).verb = s.verb := rfl
@[simp] theorem State.halt_sstatus (s : State) : (s.halt).sstatus = s.sstatus := rfl
@[simp] theorem State.halt_result (s : State) : (s.halt).result = s.result := rfl
@[simp] theorem State.halt_activity (s : State) : (s.halt).activity = s.activity := rfl
@[simp] theorem State.halt_request (s : State) : (s.halt).request = s.request := rfl
@[simp] theorem State.halt_reply (s : State) : (s.halt).reply = s.reply := rfl

/-! ### `State.countStep` -/

@[simp] theorem State.countStep_cfg (s : State) : (s.countStep).cfg = s.cfg := rfl
@[simp] theorem State.countStep_status (s : State) : (s.countStep).status = s.status := rfl
@[simp] theorem State.countStep_ip (s : State) : (s.countStep).ip = s.ip := rfl
@[simp] theorem State.countStep_fault (s : State) : (s.countStep).fault = s.fault := rfl
@[simp] theorem State.countStep_steps (s : State) : (s.countStep).steps = s.steps + 1 := rfl
@[simp] theorem State.countStep_mem (s : State) : (s.countStep).mem = s.mem := rfl
@[simp] theorem State.countStep_base (s : State) : (s.countStep).base = s.base := rfl
@[simp] theorem State.countStep_target (s : State) : (s.countStep).target = s.target := rfl
@[simp] theorem State.countStep_noun (s : State) : (s.countStep).noun = s.noun := rfl
@[simp] theorem State.countStep_verb (s : State) : (s.countStep).verb = s.verb := rfl
@[simp] theorem State.countStep_sstatus (s : State) : (s.countStep).sstatus = s.sstatus := rfl
@[simp] theorem State.countStep_result (s : State) : (s.countStep).result = s.result := rfl
@[simp] theorem State.countStep_activity (s : State) : (s.countStep).activity = s.activity := rfl
@[simp] theorem State.countStep_request (s : State) : (s.countStep).request = s.request := rfl
@[simp] theorem State.countStep_reply (s : State) : (s.countStep).reply = s.reply := rfl

/-! ### `State.startRun` -/

@[simp] theorem State.startRun_cfg (s : State) (m : Memory) : (s.startRun m).cfg = s.cfg := rfl
@[simp] theorem State.startRun_status (s : State) (m : Memory) : (s.startRun m).status = .running := rfl
@[simp] theorem State.startRun_ip (s : State) (m : Memory) : (s.startRun m).ip = 0 := rfl
@[simp] theorem State.startRun_fault (s : State) (m : Memory) : (s.startRun m).fault = none := rfl
@[simp] theorem State.startRun_steps (s : State) (m : Memory) : (s.startRun m).steps = 0 := rfl
@[simp] theorem State.startRun_mem (s : State) (m : Memory) : (s.startRun m).mem = m := rfl
@[simp] theorem State.startRun_base (s : State) (m : Memory) : (s.startRun m).base = s.base := rfl
@[simp] theorem State.startRun_target (s : State) (m : Memory) : (s.startRun m).target = s.target := rfl
@[simp] theorem State.startRun_noun (s : State) (m : Memory) : (s.startRun m).noun = s.noun := rfl
@[simp] theorem State.startRun_verb (s : State) (m : Memory) : (s.startRun m).verb = s.verb := rfl
@[simp] theorem State.startRun_sstatus (s : State) (m : Memory) : (s.startRun m).sstatus = s.sstatus := rfl
@[simp] theorem State.startRun_result (s : State) (m : Memory) : (s.startRun m).result = s.result := rfl
@[simp] theorem State.startRun_activity (s : State) (m : Memory) : (s.startRun m).activity = s.activity := rfl
@[simp] theorem State.startRun_request (s : State) (m : Memory) : (s.startRun m).request = s.request := rfl
@[simp] theorem State.startRun_reply (s : State) (m : Memory) : (s.startRun m).reply = s.reply := rfl

/-! ### `State.discardRun` -/

@[simp] theorem State.discardRun_cfg (s : State) : (s.discardRun).cfg = s.cfg := rfl
@[simp] theorem State.discardRun_status (s : State) : (s.discardRun).status = .idle := rfl
@[simp] theorem State.discardRun_ip (s : State) : (s.discardRun).ip = 0 := rfl
@[simp] theorem State.discardRun_fault (s : State) : (s.discardRun).fault = none := rfl
@[simp] theorem State.discardRun_steps (s : State) : (s.discardRun).steps = 0 := rfl
@[simp] theorem State.discardRun_mem (s : State) : (s.discardRun).mem = Memory.empty := rfl
@[simp] theorem State.discardRun_base (s : State) : (s.discardRun).base = s.base := rfl
@[simp] theorem State.discardRun_target (s : State) : (s.discardRun).target = s.target := rfl
@[simp] theorem State.discardRun_noun (s : State) : (s.discardRun).noun = s.noun := rfl
@[simp] theorem State.discardRun_verb (s : State) : (s.discardRun).verb = s.verb := rfl
@[simp] theorem State.discardRun_sstatus (s : State) : (s.discardRun).sstatus = s.sstatus := rfl
@[simp] theorem State.discardRun_result (s : State) : (s.discardRun).result = s.result := rfl
@[simp] theorem State.discardRun_activity (s : State) : (s.discardRun).activity = s.activity := rfl
@[simp] theorem State.discardRun_request (s : State) : (s.discardRun).request = s.request := rfl
@[simp] theorem State.discardRun_reply (s : State) : (s.discardRun).reply = s.reply := rfl

/-! ### `State.finish` -/

@[simp] theorem State.finish_cfg (s : State) (r : Reply) : (s.finish r).cfg = s.cfg := rfl
@[simp] theorem State.finish_status (s : State) (r : Reply) : (s.finish r).status = s.status := rfl
@[simp] theorem State.finish_ip (s : State) (r : Reply) : (s.finish r).ip = s.ip := rfl
@[simp] theorem State.finish_fault (s : State) (r : Reply) : (s.finish r).fault = s.fault := rfl
@[simp] theorem State.finish_steps (s : State) (r : Reply) : (s.finish r).steps = s.steps := rfl
@[simp] theorem State.finish_mem (s : State) (r : Reply) : (s.finish r).mem = s.mem := rfl
@[simp] theorem State.finish_base (s : State) (r : Reply) : (s.finish r).base = s.base := rfl
@[simp] theorem State.finish_target (s : State) (r : Reply) : (s.finish r).target = s.target := rfl
@[simp] theorem State.finish_noun (s : State) (r : Reply) : (s.finish r).noun = s.noun := rfl
@[simp] theorem State.finish_verb (s : State) (r : Reply) : (s.finish r).verb = s.verb := rfl
@[simp] theorem State.finish_sstatus (s : State) (r : Reply) : (s.finish r).sstatus = s.sstatus := rfl
@[simp] theorem State.finish_result (s : State) (r : Reply) : (s.finish r).result = s.result := rfl
@[simp] theorem State.finish_activity (s : State) (r : Reply) : (s.finish r).activity = .idle := rfl
@[simp] theorem State.finish_request (s : State) (r : Reply) : (s.finish r).request = s.request := rfl
@[simp] theorem State.finish_reply (s : State) (r : Reply) : (s.finish r).reply = some r := rfl

/-! ### `State.beginSearch` -/

@[simp] theorem State.beginSearch_cfg (s : State) (a : Activity) (b : Memory) (t : Nat) : (s.beginSearch a b t).cfg = s.cfg := rfl
@[simp] theorem State.beginSearch_status (s : State) (a : Activity) (b : Memory) (t : Nat) : (s.beginSearch a b t).status = s.status := rfl
@[simp] theorem State.beginSearch_ip (s : State) (a : Activity) (b : Memory) (t : Nat) : (s.beginSearch a b t).ip = s.ip := rfl
@[simp] theorem State.beginSearch_fault (s : State) (a : Activity) (b : Memory) (t : Nat) : (s.beginSearch a b t).fault = s.fault := rfl
@[simp] theorem State.beginSearch_steps (s : State) (a : Activity) (b : Memory) (t : Nat) : (s.beginSearch a b t).steps = s.steps := rfl
@[simp] theorem State.beginSearch_mem (s : State) (a : Activity) (b : Memory) (t : Nat) : (s.beginSearch a b t).mem = s.mem := rfl
@[simp] theorem State.beginSearch_base (s : State) (a : Activity) (b : Memory) (t : Nat) : (s.beginSearch a b t).base = b := rfl
@[simp] theorem State.beginSearch_target (s : State) (a : Activity) (b : Memory) (t : Nat) : (s.beginSearch a b t).target = t := rfl
@[simp] theorem State.beginSearch_noun (s : State) (a : Activity) (b : Memory) (t : Nat) : (s.beginSearch a b t).noun = 0 := rfl
@[simp] theorem State.beginSearch_verb (s : State) (a : Activity) (b : Memory) (t : Nat) : (s.beginSearch a b t).verb = 0 := rfl
@[simp] theorem State.beginSearch_sstatus (s : State) (a : Activity) (b : Memory) (t : Nat) : (s.beginSearch a b t).sstatus = .searching := rfl
@[simp] theorem State.beginSearch_result (s : State) (a : Activity) (b : Memory) (t : Nat) : (s.beginSearch a b t).result = none := rfl
@[simp] theorem State.beginSearch_activity (s : State) (a : Activity) (b : Memory) (t : Nat) : (s.beginSearch a b t).activity = a := rfl
@[simp] theorem State.beginSearch_request (s : State) (a : Activity) (b : Memory) (t : Nat) : (s.beginSearch a b t).request = s.request := rfl
@[simp] theorem State.beginSearch_reply (s : State) (a : Activity) (b : Memory) (t : Nat) : (s.beginSearch a b t).reply = s.reply := rfl

/-! ### `State.searchFound` -/

@[simp] theorem State.searchFound_cfg (s : State) : (s.searchFound).cfg = s.cfg := rfl
@[simp] theorem State.searchFound_status (s : State) : (s.searchFound).status = s.status := rfl
@[simp] theorem State.searchFound_ip (s : State) : (s.searchFound).ip = s.ip := rfl
@[simp] theorem State.searchFound_fault (s : State) : (s.searchFound).fault = s.fault := rfl
@[simp] theorem State.searchFound_steps (s : State) : (s.searchFound).steps = s.steps := rfl
@[simp] theorem State.searchFound_mem (s : State) : (s.searchFound).mem = s.mem := rfl
@[simp] theorem State.searchFound_base (s : State) : (s.searchFound).base = s.base := rfl
@[simp] theorem State.searchFound_target (s : State) : (s.searchFound).target = s.target := rfl
@[simp] theorem State.searchFound_noun (s : State) : (s.searchFound).noun = s.noun := rfl
@[simp] theorem State.searchFound_verb (s : State) : (s.searchFound).verb = s.verb := rfl
@[simp] theorem State.searchFound_sstatus (s : State) : (s.searchFound).sstatus = .found := rfl
@[simp] theorem State.searchFound_result (s : State) : (s.searchFound).result = some (s.noun, s.verb) := rfl
@[simp] theorem State.searchFound_activity (s : State) : (s.searchFound).activity = .idle := rfl
@[simp] theorem State.searchFound_request (s : State) : (s.searchFound).request = s.request := rfl
@[simp] theorem State.searchFound_reply (s : State) : (s.searchFound).reply = some s.foundReply := rfl

/-! ### `State.searchExhausted` -/

@[simp] theorem State.searchExhausted_cfg (s : State) : (s.searchExhausted).cfg = s.cfg := rfl
@[simp] theorem State.searchExhausted_status (s : State) : (s.searchExhausted).status = s.status := rfl
@[simp] theorem State.searchExhausted_ip (s : State) : (s.searchExhausted).ip = s.ip := rfl
@[simp] theorem State.searchExhausted_fault (s : State) : (s.searchExhausted).fault = s.fault := rfl
@[simp] theorem State.searchExhausted_steps (s : State) : (s.searchExhausted).steps = s.steps := rfl
@[simp] theorem State.searchExhausted_mem (s : State) : (s.searchExhausted).mem = s.mem := rfl
@[simp] theorem State.searchExhausted_base (s : State) : (s.searchExhausted).base = s.base := rfl
@[simp] theorem State.searchExhausted_target (s : State) : (s.searchExhausted).target = s.target := rfl
@[simp] theorem State.searchExhausted_noun (s : State) : (s.searchExhausted).noun = s.noun := rfl
@[simp] theorem State.searchExhausted_verb (s : State) : (s.searchExhausted).verb = s.verb := rfl
@[simp] theorem State.searchExhausted_sstatus (s : State) : (s.searchExhausted).sstatus = .notFound := rfl
@[simp] theorem State.searchExhausted_result (s : State) : (s.searchExhausted).result = none := rfl
@[simp] theorem State.searchExhausted_activity (s : State) : (s.searchExhausted).activity = .idle := rfl
@[simp] theorem State.searchExhausted_request (s : State) : (s.searchExhausted).request = s.request := rfl
@[simp] theorem State.searchExhausted_reply (s : State) : (s.searchExhausted).reply = some .notFound := rfl

/-! ### `State.resetWith` -/

@[simp] theorem State.resetWith_cfg (c : Config) : (State.resetWith c).cfg = c := rfl
@[simp] theorem State.resetWith_status (c : Config) : (State.resetWith c).status = .idle := rfl
@[simp] theorem State.resetWith_ip (c : Config) : (State.resetWith c).ip = 0 := rfl
@[simp] theorem State.resetWith_fault (c : Config) : (State.resetWith c).fault = none := rfl
@[simp] theorem State.resetWith_steps (c : Config) : (State.resetWith c).steps = 0 := rfl
@[simp] theorem State.resetWith_mem (c : Config) : (State.resetWith c).mem = Memory.empty := rfl
@[simp] theorem State.resetWith_base (c : Config) : (State.resetWith c).base = Memory.empty := rfl
@[simp] theorem State.resetWith_target (c : Config) : (State.resetWith c).target = 0 := rfl
@[simp] theorem State.resetWith_noun (c : Config) : (State.resetWith c).noun = 0 := rfl
@[simp] theorem State.resetWith_verb (c : Config) : (State.resetWith c).verb = 0 := rfl
@[simp] theorem State.resetWith_sstatus (c : Config) : (State.resetWith c).sstatus = .idle := rfl
@[simp] theorem State.resetWith_result (c : Config) : (State.resetWith c).result = none := rfl
@[simp] theorem State.resetWith_activity (c : Config) : (State.resetWith c).activity = .idle := rfl
@[simp] theorem State.resetWith_request (c : Config) : (State.resetWith c).request = none := rfl
@[simp] theorem State.resetWith_reply (c : Config) : (State.resetWith c).reply = none := rfl

/-! ### Updates that do not interact -/

theorem State.raise_countStep (s : State) (f : FaultRecord) : s.countStep.raise f = (s.raise f).countStep := rfl

@[simp] theorem State.settle_ok (s t : State) : s.settle (.ok t) = .next t := rfl

@[simp] theorem State.settle_error (s : State) (f : FaultRecord) : s.settle (.error f) = .next (s.raise f) := rfl

end Sys2Proof.Machine
end

