-- ==== Sys2Proof/Laws/Memory.lean ====
section
/-! SUPPORT. The laws of the memory primitives: read after write, and that every operation keeps an image an image. -/

namespace Sys2Proof.Machine

variable {W : Nat} {m m' : Memory} {addr a : Nat} {v : Nat} {f : FaultRecord}

theorem Memory.wf_iff : m.wf W = true ↔ ∀ v ∈ m.cells, v < 2 ^ W := by
  simp [Memory.wf]

theorem Memory.read_eq_ok : m.read addr = .ok v ↔ m.cells[addr]? = some v := by
  unfold Memory.read
  split <;> simp_all

theorem Memory.read_eq_error : m.read addr = .error f ↔ m.length ≤ addr ∧ f = .outOfBounds addr m.length := by
  unfold Memory.read
  split
  · next h =>
    have := (List.getElem?_eq_some_iff.mp h).1
    simp only [reduceCtorEq, Memory.length, false_iff, not_and]
    omega
  · next h =>
    have := List.getElem?_eq_none_iff.mp h
    simp [Memory.length, this, eq_comm]

theorem Memory.read_lt (h : m.read addr = .ok v) : addr < m.length :=
  (List.getElem?_eq_some_iff.mp (Memory.read_eq_ok.mp h)).1

theorem Memory.read_of_lt (h : addr < m.length) : ∃ v, m.read addr = .ok v :=
  ⟨m.cells[addr], Memory.read_eq_ok.mpr (List.getElem?_eq_getElem h)⟩

theorem Memory.read_of_le (h : m.length ≤ addr) : m.read addr = .error (.outOfBounds addr m.length) :=
  Memory.read_eq_error.mpr ⟨h, rfl⟩

theorem Memory.read_fits (hm : m.wf W = true) (h : m.read addr = .ok v) : v < 2 ^ W :=
  Memory.wf_iff.mp hm v (List.mem_of_getElem? (Memory.read_eq_ok.mp h))

theorem Memory.write_of_lt (h : addr < m.length) : m.write addr v = .ok { cells := m.cells.set addr v } := by
  simp [Memory.write, h]

theorem Memory.write_of_le (h : m.length ≤ addr) : m.write addr v = .error (.outOfBounds addr m.length) := by
  simp [Memory.write, Nat.not_lt.mpr h]

/-- Everything a write can do. -/
theorem Memory.write_eq_ok :
    m.write addr v = .ok m' ↔ addr < m.length ∧ m' = { cells := m.cells.set addr v } := by
  by_cases h : addr < m.length <;> simp [Memory.write, h, eq_comm]

theorem Memory.write_eq_error : m.write addr v = .error f ↔ m.length ≤ addr ∧ f = .outOfBounds addr m.length := by
  by_cases h : addr < m.length
  · simp [Memory.write, h]
  · simp [Memory.write, h, Nat.not_lt.mp h, eq_comm]

theorem Memory.write_length (h : m.write addr v = .ok m') : m'.length = m.length := by
  obtain ⟨-, rfl⟩ := Memory.write_eq_ok.mp h
  simp [Memory.length]

theorem Memory.read_write_same (h : m.write addr v = .ok m') : m'.read addr = .ok v := by
  obtain ⟨hlt, rfl⟩ := Memory.write_eq_ok.mp h
  simp [Memory.read_eq_ok, List.getElem?_set_self (by simpa [Memory.length] using hlt)]

theorem Memory.read_write_other (h : m.write addr v = .ok m') (ha : a ≠ addr) : m'.read a = m.read a := by
  obtain ⟨-, rfl⟩ := Memory.write_eq_ok.mp h
  simp [Memory.read, Memory.length, List.getElem?_set_ne (Ne.symm ha)]

theorem Memory.write_keeps_wf (hm : m.wf W = true) (hv : v < 2 ^ W) (h : m.write addr v = .ok m') : m'.wf W = true := by
  obtain ⟨-, rfl⟩ := Memory.write_eq_ok.mp h
  rw [Memory.wf_iff] at *
  intro w hw
  rcases List.mem_or_eq_of_mem_set hw with h | rfl
  · exact hm w h
  · exact hv

@[simp] theorem Memory.copy_eq (m : Memory) : m.copy = m := by
  simp [Memory.copy]

theorem Memory.copy_keeps_wf (hm : m.wf W = true) : m.copy.wf W = true := by
  rwa [Memory.copy_eq]

@[simp] theorem Memory.empty_wf : Memory.empty.wf W = true := rfl

theorem State.reset_mem_wf : State.reset.mem.wf State.reset.cfg.width = true := by
  decide

theorem Memory.overlay_keeps_wf {pos : Nat} {cs : List Nat} (hm : m.wf W = true) (hcs : ∀ c ∈ cs, c < 2 ^ W) :
    (m.overlay pos cs).wf W = true := by
  rw [Memory.wf_iff] at *
  intro v hv
  simp only [Memory.overlay, List.mem_append, List.mem_replicate, List.mem_drop_iff_getElem] at hv
  obtain ((h | h) | h) | ⟨i, hi, h⟩ := hv
  · exact hm v (List.mem_of_mem_take h)
  · rw [h.2]; exact Nat.two_pow_pos W
  · exact hcs v h
  · exact hm v (h ▸ List.getElem_mem _)

theorem State.placeWindow_keeps_wf {s : State} {cs : List Nat} (hm : s.mem.wf s.cfg.width = true) :
    (s.placeWindow cs).mem.wf s.cfg.width = true :=
  Memory.overlay_keeps_wf hm fun c hc => by
    obtain ⟨x, -, rfl⟩ := List.mem_map.mp hc
    exact Nat.mod_lt _ (Nat.two_pow_pos _)

/-- Everything a patch can do (R143): both writes succeed, or the first address beyond the image is reported. -/
theorem Memory.patch_eq_ok {n w : Nat} :
    m.patch n w = .ok m' ↔ 2 < m.length ∧ m' = { cells := (m.cells.set 1 n).set 2 w } := by
  by_cases h1 : 1 < m.length
  · by_cases h2 : 2 < m.length
    · simp only [Memory.patch, Memory.write_of_lt h1, bind, Except.bind]
      rw [Memory.write_eq_ok]
      simp [Memory.length] at h2 ⊢
    · simp only [Memory.patch, Memory.write_of_lt h1, bind, Except.bind]
      rw [Memory.write_eq_ok]
      simp [Memory.length] at h2 ⊢
  · simp only [Memory.patch, Memory.write_of_le (Nat.not_lt.mp h1), bind, Except.bind, reduceCtorEq, false_iff, not_and]
    omega

theorem Memory.patch_length {n w : Nat} (h : m.patch n w = .ok m') : m'.length = m.length := by
  obtain ⟨-, rfl⟩ := Memory.patch_eq_ok.mp h
  simp [Memory.length]

theorem Memory.patch_keeps_wf {n w : Nat} (hm : m.wf W = true) (hn : n < 2 ^ W) (hw : w < 2 ^ W)
    (h : m.patch n w = .ok m') : m'.wf W = true := by
  obtain ⟨-, rfl⟩ := Memory.patch_eq_ok.mp h
  rw [Memory.wf_iff] at *
  intro x hx
  rcases List.mem_or_eq_of_mem_set hx with hx | rfl
  · rcases List.mem_or_eq_of_mem_set hx with hx | rfl
    · exact hm x hx
    · exact hn
  · exact hw

end Sys2Proof.Machine
end

