-- ==== Sys2Proof/Laws/Exec.lean ====
section
/-! SUPPORT. What the operand operations, `reduce` and the meanings can do. -/

namespace Sys2Proof.Machine

variable {s t : State} {a b d x y v op : Nat} {f : FaultRecord}

theorem State.readOperand_eq (s : State) (a : Nat) : s.readOperand a = s.mem.read a := rfl

theorem State.writeDestination_eq (s : State) (d v : Nat) : s.writeDestination d v = s.mem.write d v := rfl

theorem State.checkDestination_eq_ok : s.checkDestination d = .ok () ↔ d < s.mem.length := by
  by_cases h : d < s.mem.length <;> simp [State.checkDestination, h]

theorem State.checkDestination_eq_error :
    s.checkDestination d = .error f ↔ s.mem.length ≤ d ∧ f = .outOfBounds d s.mem.length := by
  by_cases h : d < s.mem.length
  · simp [State.checkDestination, h]
  · simp [State.checkDestination, h, Nat.not_lt.mp h, eq_comm]

/-- Everything `reduce` can answer as a value (R103). -/
theorem reduce_eq_ok {c : Config} {r : Nat} :
    reduce c op x y v = .ok r ↔
      (v < 2 ^ c.width ∧ r = v) ∨ (2 ^ c.width ≤ v ∧ c.overflowMode = .wrap ∧ r = v % 2 ^ c.width) := by
  by_cases h : v < 2 ^ c.width
  · simp [reduce, h, Nat.not_le.mpr h, eq_comm]
  · cases hm : c.overflowMode <;> simp [reduce, h, hm, Nat.not_lt.mp h, Word.wrap, eq_comm]

/-- Everything `reduce` can raise (R103). -/
theorem reduce_eq_error {c : Config} :
    reduce c op x y v = .error f ↔
      2 ^ c.width ≤ v ∧ c.overflowMode = .fault ∧ f = .arithmeticOverflow op x y := by
  by_cases h : v < 2 ^ c.width
  · simp [reduce, h]
  · cases hm : c.overflowMode <;> simp [reduce, h, hm, Nat.not_lt.mp h, eq_comm]

theorem reduce_fits {c : Config} {r : Nat} (h : reduce c op x y v = .ok r) : r < 2 ^ c.width := by
  obtain ⟨hv, rfl⟩ | ⟨-, -, rfl⟩ := reduce_eq_ok.mp h
  · exact hv
  · exact Nat.mod_lt _ (Nat.two_pow_pos _)

/-- The values ADD and MUL compute with, and the state they leave: everything `arith` can answer as a state (R102). -/
theorem arith_eq_ok {g : Nat → Nat → Nat} :
    arith op g a b d s = .ok t ↔
      ∃ x y r, s.mem.read a = .ok x ∧ s.mem.read b = .ok y ∧ d < s.mem.length ∧
        reduce s.cfg op x y (g x y) = .ok r ∧ t = s.retire { cells := s.mem.cells.set d r } := by
  constructor
  · intro h
    simp only [arith, bind, Except.bind, State.readOperand_eq, State.writeDestination_eq] at h
    cases hx : s.mem.read a with
    | error e => simp [hx] at h
    | ok x =>
    cases hy : s.mem.read b with
    | error e => simp [hx, hy] at h
    | ok y =>
    cases hd : s.checkDestination d with
    | error e => simp [hx, hy, hd] at h
    | ok u =>
    cases hr : reduce s.cfg op x y (g x y) with
    | error e => simp [hx, hy, hd, hr] at h
    | ok r =>
    have hlt := State.checkDestination_eq_ok.mp hd
    simp only [hx, hy, hd, hr, Memory.write_of_lt hlt, pure, Except.pure, Except.ok.injEq] at h
    exact ⟨x, y, r, rfl, rfl, hlt, hr, h.symm⟩
  · rintro ⟨x, y, r, hx, hy, hd, hr, rfl⟩
    simp [arith, bind, Except.bind, pure, Except.pure, State.readOperand_eq, State.writeDestination_eq, hx, hy,
      State.checkDestination_eq_ok.mpr hd, hr, Memory.write_of_lt hd]

/-- Everything `arith` can raise, in the order of R102: the first source, the second, the destination, the overflow. -/
theorem arith_eq_error {g : Nat → Nat → Nat} :
    arith op g a b d s = .error f ↔
      (s.mem.length ≤ a ∧ f = .outOfBounds a s.mem.length) ∨
      (a < s.mem.length ∧ s.mem.length ≤ b ∧ f = .outOfBounds b s.mem.length) ∨
      (a < s.mem.length ∧ b < s.mem.length ∧ s.mem.length ≤ d ∧ f = .outOfBounds d s.mem.length) ∨
      (∃ x y, s.mem.read a = .ok x ∧ s.mem.read b = .ok y ∧ d < s.mem.length ∧
        reduce s.cfg op x y (g x y) = .error f) := by
  have out : ∀ {k}, s.mem.length ≤ k → ¬ k < s.mem.length := fun h => Nat.not_lt.mpr h
  have into : ∀ {k}, k < s.mem.length → ¬ s.mem.length ≤ k := fun h => Nat.not_le.mpr h
  rcases Nat.lt_or_ge a s.mem.length with ha | ha
  swap
  · have hx := Memory.read_of_le ha
    simp [arith, bind, Except.bind, State.readOperand_eq, hx, ha, out ha, eq_comm]
  obtain ⟨x, hx⟩ := Memory.read_of_lt ha
  rcases Nat.lt_or_ge b s.mem.length with hb | hb
  swap
  · have hy := Memory.read_of_le hb
    simp [arith, bind, Except.bind, State.readOperand_eq, hx, hy, ha, into ha, hb, out hb, eq_comm]
  obtain ⟨y, hy⟩ := Memory.read_of_lt hb
  rcases Nat.lt_or_ge d s.mem.length with hd | hd
  swap
  · have hc := State.checkDestination_eq_error.mpr ⟨hd, rfl⟩
    simp [arith, bind, Except.bind, State.readOperand_eq, hx, hy, hc, ha, into ha, hb, into hb, hd, out hd, eq_comm]
  have hc := State.checkDestination_eq_ok.mpr hd
  cases hr : reduce s.cfg op x y (g x y) <;>
    simp [arith, bind, Except.bind, pure, Except.pure, State.readOperand_eq, State.writeDestination_eq, hx, hy, hc, hr,
      into ha, into hb, hd, into hd, Memory.write_of_lt hd]

/-- Every instruction answers a next state: its effect, or the fault it raised, taken (R172, R176). -/
theorem exec_next (i : Instr) (s : State) : ∃ t, exec i s = .next t := by
  have settled : ∀ r : Raises State, ∃ t, s.settle r = .next t
    | .ok t => ⟨t, rfl⟩
    | .error f => ⟨s.raise f, rfl⟩
  cases i with
  | add a b d => exact settled _
  | mul a b d => exact settled _
  | hlt => exact ⟨s.halt, rfl⟩

/-- Everything an instruction can do: one of three forms, whichever constructor it is (R80). -/
theorem exec_cases {i : Instr} (h : exec i s = .next t) :
    (∃ d r, d < s.mem.length ∧ r < 2 ^ s.cfg.width ∧ i ≠ .hlt ∧ t = s.retire { cells := s.mem.cells.set d r }) ∨
    (i = .hlt ∧ t = s.halt) ∨ (∃ f, i ≠ .hlt ∧ t = s.raise f) := by
  have of_arith : ∀ {op g a b d}, s.settle (arith op g a b d s) = .next t →
      (∃ d r, d < s.mem.length ∧ r < 2 ^ s.cfg.width ∧ t = s.retire { cells := s.mem.cells.set d r }) ∨
      (∃ f, t = s.raise f) := by
    intro op g a b d h
    cases hr : arith op g a b d s with
    | error f =>
      rw [hr, State.settle_error] at h
      exact .inr ⟨f, (Host.Outcome.next.inj h).symm⟩
    | ok u =>
      rw [hr, State.settle_ok] at h
      obtain ⟨x, y, r, -, -, hd, hred, rfl⟩ := arith_eq_ok.mp hr
      exact .inl ⟨d, r, hd, reduce_fits hred, (Host.Outcome.next.inj h).symm⟩
  cases i with
  | add a b d =>
    rcases of_arith h with ⟨d, r, hd, hr, rfl⟩ | ⟨f, rfl⟩
    · exact .inl ⟨d, r, hd, hr, by simp, rfl⟩
    · exact .inr (.inr ⟨f, by simp, rfl⟩)
  | mul a b d =>
    rcases of_arith h with ⟨d, r, hd, hr, rfl⟩ | ⟨f, rfl⟩
    · exact .inl ⟨d, r, hd, hr, by simp, rfl⟩
    · exact .inr (.inr ⟨f, by simp, rfl⟩)
  | hlt => exact .inr (.inl ⟨rfl, (Host.Outcome.next.inj h).symm⟩)

end Sys2Proof.Machine
end

