-- ==== Sys2Proof/Laws/Cycle.lean ====
section
/-! SUPPORT. What fetch, one step of the core and a run can do. -/

namespace Sys2Proof.Machine

variable {s t : State} {i : Instr} {f : FaultRecord}

/-- Everything the step-limit check can answer as a state (R88). -/
theorem State.stepLimitCheck_eq_ok :
    s.stepLimitCheck = .ok t ↔
      (s.cfg.stepLimit = none ∧ t = s) ∨ (∃ n, s.cfg.stepLimit = some n ∧ s.steps < n ∧ t = s.countStep) := by
  cases h : s.cfg.stepLimit with
  | none => simp [State.stepLimitCheck, h, eq_comm]
  | some n =>
    by_cases hn : n ≤ s.steps
    · simp [State.stepLimitCheck, h, hn, Nat.not_lt.mpr hn]
    · simp [State.stepLimitCheck, h, hn, Nat.not_le.mp hn, eq_comm]

/-- The check writes the step counter at most (R84, R88). -/
theorem State.stepLimitCheck_writes (h : s.stepLimitCheck = .ok t) : t = s ∨ t = s.countStep := by
  rcases State.stepLimitCheck_eq_ok.mp h with ⟨-, rfl⟩ | ⟨n, -, -, rfl⟩ <;> simp

theorem State.fetch_hlt (h : s.mem.read s.ip = .ok 99) : s.fetch = .ok .hlt := by
  simp [State.fetch, h]

/-- Everything the field fetch can answer (R82). -/
theorem State.fetchFields_eq_ok {a b d : Nat} :
    s.fetchFields = .ok (a, b, d) ↔
      s.mem.read (s.ip + 1) = .ok a ∧ s.mem.read (s.ip + 2) = .ok b ∧ s.mem.read (s.ip + 3) = .ok d := by
  cases h1 : s.mem.read (s.ip + 1) <;> cases h2 : s.mem.read (s.ip + 2) <;> cases h3 : s.mem.read (s.ip + 3) <;>
    simp [State.fetchFields, h1, h2, h3, bind, Except.bind, pure, Except.pure]

/-- Once the opcode cell is in the image, a field that is not reports the first address beyond it (R89). -/
theorem State.fetchFields_eq_error (hip : s.ip < s.mem.length) :
    s.fetchFields = .error f ↔ s.mem.length ≤ s.ip + 3 ∧ f = .outOfBounds s.mem.length s.mem.length := by
  have missing : ∀ k, s.mem.length = s.ip + k →
      s.mem.read (s.ip + k) = .error (.outOfBounds s.mem.length s.mem.length) := fun k hk => by
    rw [Memory.read_of_le (Nat.le_of_eq hk), ← hk]
  have present : ∀ k, s.ip + k < s.mem.length → ∃ v, s.mem.read (s.ip + k) = .ok v := fun k hk => Memory.read_of_lt hk
  by_cases h1 : s.mem.length = s.ip + 1
  · have : s.mem.length ≤ s.ip + 3 := by omega
    simp [State.fetchFields, missing 1 h1, bind, Except.bind, this, eq_comm]
  obtain ⟨a, ha⟩ := present 1 (by omega)
  by_cases h2 : s.mem.length = s.ip + 2
  · have : s.mem.length ≤ s.ip + 3 := by omega
    simp [State.fetchFields, ha, missing 2 h2, bind, Except.bind, this, eq_comm]
  obtain ⟨b, hb⟩ := present 2 (by omega)
  by_cases h3 : s.mem.length = s.ip + 3
  · have : s.mem.length ≤ s.ip + 3 := by omega
    simp [State.fetchFields, ha, hb, missing 3 h3, bind, Except.bind, this, eq_comm]
  obtain ⟨d, hd⟩ := present 3 (by omega)
  have : ¬ s.mem.length ≤ s.ip + 3 := by omega
  simp [State.fetchFields, ha, hb, hd, bind, Except.bind, pure, Except.pure, this]

/-- What a fetch that answers an instruction has read (R82): the opcode cell, and for ADD and MUL the three fields. -/
theorem State.fetch_eq_ok :
    s.fetch = .ok i ↔
      (i = .hlt ∧ s.mem.read s.ip = .ok 99) ∨
      (∃ a b d, s.mem.read (s.ip + 1) = .ok a ∧ s.mem.read (s.ip + 2) = .ok b ∧ s.mem.read (s.ip + 3) = .ok d ∧
        ((s.mem.read s.ip = .ok 1 ∧ i = .add a b d) ∨ (s.mem.read s.ip = .ok 2 ∧ i = .mul a b d))) := by
  unfold State.fetch
  cases hop : s.mem.read s.ip with
  | error e => simp
  | ok op =>
  by_cases h99 : op = 99
  · simp [h99, eq_comm]
  by_cases hearly : s.cfg.decodeOrder = .opcodeFirst ∧ op ≠ 1 ∧ op ≠ 2
  · simp [h99, hearly]
  simp only [h99, hearly, if_false, State.fetchRest]
  cases hf : s.fetchFields with
  | error e =>
    have none : ∀ a b d, ¬ (s.mem.read (s.ip + 1) = .ok a ∧ s.mem.read (s.ip + 2) = .ok b ∧ s.mem.read (s.ip + 3) = .ok d) :=
      fun a b d h => by rw [State.fetchFields_eq_ok.mpr h] at hf; cases hf
    simp only [reduceCtorEq, Except.ok.injEq, h99, and_false, false_or, false_iff]
    rintro ⟨a, b, d, ha, hb, hd, -⟩
    exact none a b d ⟨ha, hb, hd⟩
  | ok r =>
    obtain ⟨a, b, d⟩ := r
    obtain ⟨ha, hb, hd⟩ := State.fetchFields_eq_ok.mp hf
    by_cases h1 : op = 1
    · simp [decodeFields, ha, hb, hd, h1, eq_comm]
    by_cases h2 : op = 2
    · simp [decodeFields, ha, hb, hd, h2, eq_comm]
    simp [decodeFields, h1, h2, h99]

/-- Everything a fetch can raise, in the order of R89: the opcode cell is beyond the image; the opcode is illegal and
checked first; the image ends before the third field, and its first missing address is `L`; the opcode is illegal. -/
theorem State.fetch_eq_error :
    s.fetch = .error f ↔
      (s.mem.length ≤ s.ip ∧ f = .outOfBounds s.ip s.mem.length) ∨
      (∃ op, s.mem.read s.ip = .ok op ∧ op ≠ 99 ∧
        ((s.cfg.decodeOrder = .opcodeFirst ∧ op ≠ 1 ∧ op ≠ 2 ∧ f = .unknownOpcode op) ∨
         (¬ (s.cfg.decodeOrder = .opcodeFirst ∧ op ≠ 1 ∧ op ≠ 2) ∧
           ((s.mem.length ≤ s.ip + 3 ∧ f = .outOfBounds s.mem.length s.mem.length) ∨
            (s.ip + 3 < s.mem.length ∧ op ≠ 1 ∧ op ≠ 2 ∧ f = .unknownOpcode op))))) := by
  rcases Nat.lt_or_ge s.ip s.mem.length with hip | hip
  swap
  · simp [State.fetch, Memory.read_of_le hip, hip, eq_comm]
  obtain ⟨op, hop⟩ := Memory.read_of_lt hip
  have hnle : ¬ s.mem.length ≤ s.ip := Nat.not_le.mpr hip
  by_cases h99 : op = 99
  · simp [State.fetch_hlt (h99 ▸ hop), hop, hnle, h99]
  by_cases hearly : s.cfg.decodeOrder = .opcodeFirst ∧ op ≠ 1 ∧ op ≠ 2
  · obtain ⟨ho, h1, h2⟩ := hearly
    simp [State.fetch, hop, h99, ho, h1, h2, hnle, eq_comm]
  simp only [State.fetch, hop, h99, hearly, if_false, State.fetchRest, hnle, Except.ok.injEq, exists_eq_left', false_and,
    false_or, ne_eq, not_false_eq_true, true_and]
  cases hf : s.fetchFields with
  | error e =>
    obtain ⟨h3, rfl⟩ := (State.fetchFields_eq_error hip).mp hf
    have : ¬ s.ip + 3 < s.mem.length := Nat.not_lt.mpr h3
    simp only [Except.error.injEq, h3, this, true_and, false_and, or_false]
    exact ⟨fun h => .inr h.symm, fun h => h.elim (fun h => absurd ⟨h.1, h.2.1, h.2.2.1⟩ hearly) Eq.symm⟩
  | ok r =>
    obtain ⟨a, b, d⟩ := r
    have h3 := Memory.read_lt (State.fetchFields_eq_ok.mp hf).2.2
    by_cases h1 : op = 1
    · simp [decodeFields, h1, h3, Nat.not_le.mpr h3]
    by_cases h2 : op = 2
    · simp [decodeFields, h2, h3, Nat.not_le.mpr h3]
    have ho : s.cfg.decodeOrder ≠ .opcodeFirst := fun h => hearly ⟨h, h1, h2⟩
    simp [decodeFields, h1, h2, h99, h3, Nat.not_le.mpr h3, ho, eq_comm]

/-- An instruction that is not HALT has all its four cells in the image (R93). -/
theorem State.fetch_window (h : s.fetch = .ok i) (hi : i ≠ .hlt) : s.ip + 3 < s.mem.length := by
  rcases State.fetch_eq_ok.mp h with ⟨rfl, -⟩ | ⟨a, b, d, -, -, hd, -⟩
  · exact absurd rfl hi
  · exact Memory.read_lt hd

/-- A step of the core always answers a next state (R80, R176). -/
theorem coreStep_next (s : State) : ∃ t, coreStep s = .next t := by
  unfold coreStep
  cases s.stepLimitCheck with
  | error f => exact ⟨_, rfl⟩
  | ok s1 =>
    cases h : s1.fetch with
    | error f => exact ⟨s1.raise f, by simp [h]⟩
    | ok i => simpa [h] using exec_next i s1

/-- Everything one step of the core can do (R80, R84): `u` is the state after the step-limit check, which differs from
`s` in the step counter at most; then an instruction whose four cells are in the image writes one cell and advances, or
HALT stops, or a fault is taken. -/
theorem coreStep_cases (h : coreStep s = .next t) :
    ∃ u, (u = s ∨ u = s.countStep) ∧
      ((∃ d r, d < s.mem.length ∧ r < 2 ^ s.cfg.width ∧ s.ip + 3 < s.mem.length ∧
          t = u.retire { cells := s.mem.cells.set d r }) ∨
       (s.mem.read s.ip = .ok 99 ∧ t = u.halt) ∨
       (∃ f, t = u.raise f)) := by
  unfold coreStep at h
  cases hu : s.stepLimitCheck with
  | error f =>
    rw [hu] at h
    exact ⟨s, .inl rfl, .inr (.inr ⟨f, (Host.Outcome.next.inj h).symm⟩)⟩
  | ok u =>
    rw [hu] at h
    refine ⟨u, State.stepLimitCheck_writes hu, ?_⟩
    have same : u.mem = s.mem ∧ u.ip = s.ip ∧ u.cfg = s.cfg := by
      rcases State.stepLimitCheck_writes hu with rfl | rfl <;> simp
    cases hf : u.fetch with
    | error f =>
      simp only [hf] at h
      exact .inr (.inr ⟨f, (Host.Outcome.next.inj h).symm⟩)
    | ok i =>
      simp only [hf] at h
      rcases exec_cases h with ⟨d, r, hd, hr, hi, rfl⟩ | ⟨rfl, rfl⟩ | ⟨f, -, rfl⟩
      · have hw := State.fetch_window hf hi
        simp only [same.1, same.2.1, same.2.2] at hd hr hw
        exact .inl ⟨d, r, hd, hr, hw, by rw [same.1]⟩
      · rcases State.fetch_eq_ok.mp hf with ⟨-, h99⟩ | ⟨a, b, d, -, -, -, ⟨-, hi⟩ | ⟨-, hi⟩⟩
        · exact .inr (.inl ⟨by simpa [same.1, same.2.1] using h99, rfl⟩)
        · cases hi
        · cases hi
      · exact .inr (.inr ⟨f, rfl⟩)

/-- A step of the core writes its own registers and nothing of the scheduler, the interface or the parameters
(R28, R32). -/
theorem coreStep_frame (h : coreStep s = .next t) :
    t = { s with status := t.status, ip := t.ip, fault := t.fault, steps := t.steps, mem := t.mem } := by
  obtain ⟨u, rfl | rfl, ⟨d, r, -, -, -, rfl⟩ | ⟨-, rfl⟩ | ⟨f, rfl⟩⟩ := coreStep_cases h <;> rfl

/-! ### A run -/

theorem runLoop_stopped (k : Nat) (h : s.status ≠ .running) : runLoop k s = s := by
  cases k with
  | zero => rfl
  | succ k => cases hs : s.status <;> simp_all [runLoop]

theorem runLoop_step (k : Nat) (hr : s.status = .running) (h : coreStep s = .next t) :
    runLoop (k + 1) s = runLoop k t := by
  simp [runLoop, hr, h]

/-- What every step of the core keeps, a run keeps. -/
theorem runLoop_induction {P : State → Prop} (hstep : ∀ s t, P s → s.status = .running → coreStep s = .next t → P t)
    (k : Nat) (s : State) (hs : P s) : P (runLoop k s) := by
  induction k generalizing s with
  | zero => exact hs
  | succ k ih =>
    by_cases hr : s.status = .running
    · obtain ⟨t, ht⟩ := coreStep_next s
      rw [runLoop_step k hr ht]
      exact ih t (hstep s t hs hr ht)
    · rwa [runLoop_stopped _ hr]

theorem runLoop_add (j k : Nat) (s : State) : runLoop (j + k) s = runLoop k (runLoop j s) := by
  induction j generalizing s with
  | zero => simp [runLoop]
  | succ j ih =>
    by_cases hr : s.status = .running
    · obtain ⟨t, ht⟩ := coreStep_next s
      rw [Nat.add_right_comm, runLoop_step _ hr ht, runLoop_step _ hr ht, ih]
    · rw [runLoop_stopped _ hr, runLoop_stopped _ hr, runLoop_stopped _ hr]

end Sys2Proof.Machine
end

