-- ==== Sys2Proof/Laws/Loader.lean ====
section
/-! SUPPORT. What the loader's functions can answer. -/

namespace Sys2Proof.Machine

variable {c : Config} {tok : Text} {toks : List Text} {vs : List Nat} {v : Nat} {f : FaultRecord} {text : Text} {m : Memory}

theorem splitCommas_ne_nil (t : Text) : splitCommas t ≠ [] := by
  cases t with
  | nil => simp [splitCommas]
  | cons c cs =>
    unfold splitCommas
    split
    · simp
    · split <;> simp

/-- A value is the value of the digits, and fits a cell (R124, R125). -/
theorem parseToken_ok (h : parseToken c tok = .ok v) :
    v = decimalValue (dropPlus c (trim tok)) ∧ dropPlus c (trim tok) ≠ [] ∧ (dropPlus c (trim tok)).all isDigit = true ∧
      v < 2 ^ c.width := by
  unfold parseToken at h
  simp only at h
  split at h
  · cases h
  next hd =>
  split at h
  · next hv =>
    cases h
    simp only [Bool.or_eq_true, List.isEmpty_iff, Bool.not_eq_true', not_or, Bool.not_eq_false] at hd
    exact ⟨rfl, hd.1, hd.2, hv⟩
  · cases h

/-- The only error of a token names the trimmed token (R128). -/
theorem parseToken_error (h : parseToken c tok = .error f) : f = .parseError (trim tok) := by
  unfold parseToken at h
  simp only at h
  split at h
  · exact (Except.error.inj h).symm
  split at h
  · cases h
  · exact (Except.error.inj h).symm

/-- All tokens valid: one value for each, in order (R127). -/
theorem parseTokens_eq_ok :
    parseTokens c toks = .ok vs ↔ List.Forall₂ (fun t v => parseToken c t = .ok v) toks vs := by
  induction toks generalizing vs with
  | nil => simp [parseTokens, eq_comm]
  | cons t ts ih =>
    cases h : parseToken c t with
    | error f =>
      simp only [parseTokens, h, reduceCtorEq, List.forall₂_cons_left_iff, false_and, exists_false]
    | ok v =>
      simp only [parseTokens, h, List.forall₂_cons_left_iff, Except.ok.injEq, ← ih]
      cases parseTokens c ts <;> simp [eq_comm]

/-- A load that succeeds (R127, R129). -/
theorem load_eq_ok : load c text = .ok m ↔ parseTokens c (splitCommas (firstLine text)) = .ok m.cells := by
  unfold load
  cases parseTokens c (splitCommas (firstLine text)) <;> cases m <;> simp

theorem load_eq_error : load c text = .error f ↔ parseTokens c (splitCommas (firstLine text)) = .error f := by
  unfold load
  cases parseTokens c (splitCommas (firstLine text)) <;> simp

theorem parseTokens_fits (h : parseTokens c toks = .ok vs) : ∀ v ∈ vs, v < 2 ^ c.width := by
  have := parseTokens_eq_ok.mp h
  clear h
  induction this with
  | nil => simp
  | cons h _ ih =>
    intro x hx
    rcases List.mem_cons.mp hx with rfl | hx
    · exact (parseToken_ok h).2.2.2
    · exact ih x hx

/-- What the loader makes is an image (R40, R125). -/
theorem load_makes_image (h : load c text = .ok m) : m.wf c.width = true :=
  Memory.wf_iff.mpr (parseTokens_fits (load_eq_ok.mp h))

end Sys2Proof.Machine
end

