-- ==== Sys2Proof/Laws/Search.lean ====
section
/-! SUPPORT. What the scheduler's moves and the block's other moves can do. -/

namespace Sys2Proof.Machine

variable {s t : State}

/-- Everything the move to the next pair can do (R141, R148). -/
theorem State.nextPair_cases (s : State) :
    (s.verb < 99 ∧ s.nextPair = { s with verb := s.verb + 1 }) ∨
    (99 ≤ s.verb ∧ s.noun < 99 ∧ s.nextPair = { s with noun := s.noun + 1, verb := 0 }) ∨
    (99 ≤ s.verb ∧ 99 ≤ s.noun ∧ s.nextPair = s.searchExhausted) := by
  unfold State.nextPair lastIndex
  split
  · next h => exact .inl ⟨h, rfl⟩
  · next h =>
    split
    · next h' => exact .inr (.inl ⟨by omega, h', rfl⟩)
    · next h' => exact .inr (.inr ⟨by omega, by omega, rfl⟩)

/-- Everything the start of a trial can do (R142, R143, R145). -/
theorem State.startTrial_cases (s : State) :
    (∃ m, s.base.patch s.noun s.verb = .ok m ∧ s.startTrial = s.startRun m) ∨
    (∃ f, s.base.patch s.noun s.verb = .error f ∧ s.startTrial = s.nextPair) := by
  unfold State.startTrial
  rw [Memory.copy_eq]
  cases h : s.base.patch s.noun s.verb with
  | ok m => exact .inl ⟨m, rfl, rfl⟩
  | error f => exact .inr ⟨f, rfl, rfl⟩

/-- A finished run matches exactly when it halted with the target at address 0 (R146). -/
theorem State.matchesTarget_iff {target : Nat} :
    s.matchesTarget target = true ↔ s.status = .halted ∧ s.mem.read 0 = .ok target := by
  unfold State.matchesTarget
  cases s.status <;> cases s.mem.read 0 <;> simp

/-- Everything the end of a trial can do (R145, R146). -/
theorem State.endTrial_cases (s : State) :
    (s.status = .halted ∧ s.mem.read 0 = .ok s.target ∧ s.endTrial = s.searchFound) ∨
    (¬ (s.status = .halted ∧ s.mem.read 0 = .ok s.target) ∧ s.endTrial = s.discardRun.nextPair) := by
  unfold State.endTrial
  split
  · next h =>
    obtain ⟨h1, h2⟩ := State.matchesTarget_iff.mp h
    exact .inl ⟨h1, h2, rfl⟩
  · next h => exact .inr ⟨fun h' => h (State.matchesTarget_iff.mpr h'), rfl⟩

/-- The scheduler never writes the base image, the target or the parameters (R142). -/
theorem State.schedule_keeps (s : State) :
    s.schedule.base = s.base ∧ s.schedule.target = s.target ∧ s.schedule.cfg = s.cfg := by
  have next : ∀ u : State, u.nextPair.base = u.base ∧ u.nextPair.target = u.target ∧ u.nextPair.cfg = u.cfg := by
    intro u
    rcases u.nextPair_cases with ⟨-, h⟩ | ⟨-, -, h⟩ | ⟨-, -, h⟩ <;> rw [h] <;> simp
  have trial : s.startTrial.base = s.base ∧ s.startTrial.target = s.target ∧ s.startTrial.cfg = s.cfg := by
    rcases s.startTrial_cases with ⟨m, -, h⟩ | ⟨f, -, h⟩ <;> rw [h]
    · simp
    · exact next s
  have ended : s.endTrial.base = s.base ∧ s.endTrial.target = s.target ∧ s.endTrial.cfg = s.cfg := by
    rcases s.endTrial_cases with ⟨-, -, h⟩ | ⟨-, h⟩ <;> rw [h]
    · simp
    · simpa using next s.discardRun
  unfold State.schedule
  split
  · exact trial
  · exact ended

/-- Everything a step can do: the core steps, or the block is idle and starts a pending transaction, or a run outside a
search ends, or the scheduler moves (log 6). -/
theorem step_cases (h : step s = .next t) :
    (s.status = .running ∧ coreStep s = .next t) ∨
    (s.status ≠ .running ∧ s.activity = .idle ∧ ∃ r, s.request = some r ∧ s.begin r = .next t) ∨
    (s.status ≠ .running ∧ s.status ≠ .idle ∧
      ((s.activity = .run ∧ t = s.finish s.runReply) ∨ (s.activity = .direct ∧ t = s.finish s.directReply))) ∨
    (s.status ≠ .running ∧ (s.activity = .search ∨ s.activity = .calibrate) ∧ t = s.schedule) := by
  by_cases hr : s.status = .running
  · exact .inl ⟨hr, by simpa [step, hr] using h⟩
  have hc : controlStep s = .next t := by
    cases hs : s.status <;> simp_all [step]
  right
  unfold controlStep at hc
  have ends : ∀ {reply}, s.endRun reply = .next t → s.status ≠ .idle ∧ t = s.finish reply := by
    intro reply he
    cases hs : s.status <;> simp_all [State.endRun]
  cases ha : s.activity with
  | idle =>
    cases hq : s.request with
    | none => simp [ha, hq] at hc
    | some r => exact .inl ⟨hr, rfl, r, rfl, by simpa [ha, hq] using hc⟩
  | run =>
    obtain ⟨h1, h2⟩ := ends (by simpa [ha] using hc)
    exact .inr (.inl ⟨hr, h1, .inl ⟨rfl, h2⟩⟩)
  | direct =>
    obtain ⟨h1, h2⟩ := ends (by simpa [ha] using hc)
    exact .inr (.inl ⟨hr, h1, .inr ⟨rfl, h2⟩⟩)
  | search => exact .inr (.inr ⟨hr, .inl rfl, by simpa [ha, eq_comm] using hc⟩)
  | calibrate => exact .inr (.inr ⟨hr, .inr rfl, by simpa [ha, eq_comm] using hc⟩)

end Sys2Proof.Machine
end

