-- ==== Sys2Proof/Tests/Slice0.lean ====
section
/-! SUPPORT. Tests of the model and witnesses for the hypotheses of the statements. Expected values are those of
spec/95_test_vectors.md (named G, V) or worked out by hand from the rules named. -/

namespace Sys2Proof.Tests

open Sys2Proof Sys2Proof.Machine

/-! ### Small states -/

/-- A run in progress on `cells`, `ip` at `pos`. -/
def runningAt (pos : Nat) (cells : List Nat) : State :=
  { State.reset with status := .running, activity := .run, ip := pos, mem := { cells := cells } }

/-- The same with other parameters. -/
def runningWith (c : Config) (pos : Nat) (cells : List Nat) : State := { runningAt pos cells with cfg := c }

/-- The block with a transaction handed over. -/
def pending (r : Request) : State := { State.reset with request := some r }

/-- A search for 2 on `[1,0,0,0,99]` at the pair `(noun, verb)`. -/
def searchingAt (noun verb : Nat) (status : Status) (cells : List Nat) : State :=
  { State.reset with
    status := status, mem := { cells := cells }, base := { cells := [1, 0, 0, 0, 99] }, target := 2, noun := noun,
    verb := verb, sstatus := .searching, activity := .search }

def wrapping : Config := { Config.default with overflowMode := .wrap }
def early : Config := { Config.default with decodeOrder := .opcodeFirst }
def limited (n : Nat) : Config := { Config.default with stepLimit := some n }
def plus : Config := { Config.default with loaderAcceptsPlus := true }
def narrow : Config := { Config.default with width := 7 }

/-- What a test looks at in an outcome: the observation of R92. -/
def observe : Result → Option (Status × Option FaultRecord × Nat × List Nat)
  | .next t => some (t.status, t.fault, t.ip, t.mem.cells)
  | .fault _ => none
  | .refused _ => none

/-! ### Words of the spec's encodings (R60, R65, R66) -/

theorem test_decode_add : decode [1, 9, 10, 3, 2] = .ok (.add 9 10 3, [2]) := rfl
theorem test_decode_mul : decode [2, 3, 11, 0] = .ok (.mul 3 11 0, []) := rfl
theorem test_decode_hlt : decode [99] = .ok (.hlt, []) := rfl
theorem test_decode_no_mode_digits : decode [1002, 4, 3, 4] = .error (.unknownOpcode 1002) := rfl
theorem test_decode_short_add : decode [1, 9, 10] = .error (.missingFields 1 2) := rfl
theorem test_decode_nothing : decode [] = .error .noOpcode := rfl

/-- The table's `match` values alone, in one byte (log 10). -/
theorem test_table_word_add : decodeTableWord 8 1 = some (.add 0 0 0) := by decide
theorem test_table_word_mul : decodeTableWord 8 2 = some (.mul 0 0 0) := by decide
theorem test_table_word_hlt : decodeTableWord 8 99 = some .hlt := by decide
/-- `1, 9, 10, 3` in four 64-bit cells, the first lowest. -/
theorem test_table_word_fields :
    decodeTableWord 256 0x3000000000000000a00000000000000090000000000000001 = some (.add 9 10 3) := by decide

/-! ### Well-formedness refuses each field that does not fit a cell (R10, R60) -/

theorem test_wf_add : (Instr.add 0 (2 ^ 64 - 1) 0).wellFormed 64 = true := by decide
theorem test_wf_refuses_add_opcode : (Instr.add 0 0 0).wellFormed 0 = false := by decide
theorem test_wf_refuses_add_a : (Instr.add (2 ^ 64) 0 0).wellFormed 64 = false := by decide
theorem test_wf_refuses_add_b : (Instr.add 0 (2 ^ 64) 0).wellFormed 64 = false := by decide
theorem test_wf_refuses_add_d : (Instr.add 0 0 (2 ^ 64)).wellFormed 64 = false := by decide
theorem test_wf_refuses_mul_opcode : (Instr.mul 0 0 0).wellFormed 1 = false := by decide
theorem test_wf_refuses_mul_a : (Instr.mul 128 0 0).wellFormed 7 = false := by decide
theorem test_wf_refuses_mul_b : (Instr.mul 0 128 0).wellFormed 7 = false := by decide
theorem test_wf_refuses_mul_d : (Instr.mul 0 0 128).wellFormed 7 = false := by decide
theorem test_wf_hlt : Instr.hlt.wellFormed 7 = true := by decide
theorem test_wf_refuses_hlt_opcode : Instr.hlt.wellFormed 6 = false := by decide

/-! ### One step of each instruction -/

/-- G1, attempt 1. -/
theorem test_add_writes_and_advances :
    observe (step (runningAt 0 [1, 9, 10, 3, 2, 3, 11, 0, 99, 30, 40, 50])) =
      some (.running, none, 4, [1, 9, 10, 70, 2, 3, 11, 0, 99, 30, 40, 50]) := by decide

/-- V-A4: the fault leaves `ip` and the image. -/
theorem test_add_overflow_faults :
    observe (step (runningAt 0 [1, 5, 6, 0, 99, 2 ^ 64 - 1, 1])) =
      some (.faulted, some (.arithmeticOverflow 1 (2 ^ 64 - 1) 1), 0, [1, 5, 6, 0, 99, 2 ^ 64 - 1, 1]) := by decide

/-- G3, attempt 1: the destination is a source. -/
theorem test_mul_reads_before_it_writes :
    observe (step (runningAt 0 [2, 3, 0, 3, 99])) = some (.running, none, 4, [2, 3, 0, 6, 99]) := by decide

/-- R103 under `Wrap`: `2^32 * (2^32 + 3) mod 2^64 = 3 * 2^32`. -/
theorem test_mul_wraps :
    observe (step (runningWith wrapping 0 [2, 4, 5, 0, 2 ^ 32, 2 ^ 32 + 3])) =
      some (.running, none, 4, [3 * 2 ^ 32, 4, 5, 0, 2 ^ 32, 2 ^ 32 + 3]) := by decide

/-- Property 5: `[99]` halts, `ip` stays. -/
theorem test_hlt_halts : observe (step (runningAt 0 [99])) = some (.halted, none, 0, [99]) := by decide

/-! ### The loader (44_loader.md) and the interface -/

/-- R122, R124: only the first line, whitespace trimmed, leading zeros allowed. -/
theorem test_load_first_line : load Config.default " 1,\t007 ,99\n4".toList = .ok { cells := [1, 7, 99] } := rfl

/-- R128: an empty token is an error with the empty token. -/
theorem test_load_trailing_comma : load Config.default "1,".toList = .error (.parseError []) := rfl

theorem test_load_plus : load plus "+7".toList = .ok { cells := [7] } := rfl

theorem test_load_plus_refused : load Config.default "+7".toList = .error (.parseError ['+', '7']) := rfl

/-- R80: before any transaction there is no step. -/
theorem test_reset_has_no_step : step State.reset = .fault .noTransaction := rfl

/-- R171: the five codes. -/
theorem test_fault_codes :
    [FaultRecord.parseError [], .outOfBounds 0 0, .unknownOpcode 0, .stepLimitExceeded 0, .arithmeticOverflow 1 0 0].map
      FaultRecord.code = [1, 2, 3, 4, 5] := rfl

/-! ### Witnesses: concrete states and operands that meet the hypotheses of each statement, clause by clause, at the
boundaries. The conclusion's value is shown where it is short. -/

theorem witness_ReadReturnsTheCellOrRaisesOutOfBounds :
    (1 < ({ cells := [7, 8] } : Memory).cells.length ∧ Memory.read { cells := [7, 8] } 1 = .ok 8) ∧
    (({ cells := [7, 8] } : Memory).cells.length ≤ 2 ∧
      Memory.read { cells := [7, 8] } 2 = .error (.outOfBounds 2 2)) :=
  ⟨⟨by decide, rfl⟩, by decide, rfl⟩

theorem witness_WriteChangesExactlyOneCellOrRaisesOutOfBounds :
    (1 < ({ cells := [7, 8] } : Memory).length ∧
      Memory.write { cells := [7, 8] } 1 5 = .ok { cells := [7, 5] }) ∧
    (({ cells := [7, 8] } : Memory).length ≤ 2 ∧
      Memory.write { cells := [7, 8] } 2 5 = .error (.outOfBounds 2 2)) :=
  ⟨⟨by decide, rfl⟩, by decide, rfl⟩

theorem witness_DecodeFunctionAndWhatItsAnswersDo :
    (∀ op ∈ [0, 3, 98, 100], op ≠ 99 ∧ op ≠ 1 ∧ op ≠ 2) ∧
    (∃ u, (runningAt 0 [1, 0, 0, 0]).status = .running ∧ (runningAt 0 [1, 0, 0, 0]).stepLimitCheck = .ok u ∧
      (runningAt 0 [1, 0, 0, 0]).mem.read 0 = .ok 1 ∧ (runningAt 0 [1, 0, 0, 0]).mem.read 1 = .ok 0 ∧
      (runningAt 0 [1, 0, 0, 0]).mem.read 2 = .ok 0 ∧ (runningAt 0 [1, 0, 0, 0]).mem.read 3 = .ok 0 ∧
      decodeFields 1 0 0 0 = .ok (.add 0 0 0)) ∧
    (∃ u, (runningAt 0 [3, 0, 0, 0]).status = .running ∧ (runningAt 0 [3, 0, 0, 0]).stepLimitCheck = .ok u ∧
      (runningAt 0 [3, 0, 0, 0]).mem.read 0 = .ok 3 ∧ (runningAt 0 [3, 0, 0, 0]).mem.read 1 = .ok 0 ∧
      (runningAt 0 [3, 0, 0, 0]).mem.read 2 = .ok 0 ∧ (runningAt 0 [3, 0, 0, 0]).mem.read 3 = .ok 0 ∧
      decodeFields 3 0 0 0 = .error (.unknownOpcode 3)) :=
  ⟨by decide, ⟨_, rfl, rfl, rfl, rfl, rfl, rfl, rfl⟩, _, rfl, rfl, rfl, rfl, rfl, rfl, rfl⟩

theorem witness_DecodeAcceptsOnlyEncodings : decode [1, 9, 10, 3, 99] = .ok (.add 9 10 3, [99]) := rfl

theorem witness_TableWordDecodesBack :
    (Instr.mul (2 ^ 64 - 1) 0 (2 ^ 64 - 1)).wellFormed tableCellBits = true := by decide

theorem witness_ProgramTextDecodesToItsInstructions :
    [Instr.add 127 0 127, .hlt] ≠ [] ∧ ∀ i ∈ [Instr.add 127 0 127, .hlt], i.wellFormed narrow.width = true := by decide

/-- The largest sum that fits (V-A3), and the smallest that does not, under `Wrap`. -/
theorem witness_AddWritesTheSumAndAdvances :
    ((runningAt 0 [2 ^ 64 - 2, 1]).mem.read 0 = .ok (2 ^ 64 - 2) ∧ (runningAt 0 [2 ^ 64 - 2, 1]).mem.read 1 = .ok 1 ∧
      1 < (runningAt 0 [2 ^ 64 - 2, 1]).mem.length ∧
      (2 ^ 64 - 2) + 1 < 2 ^ (runningAt 0 [2 ^ 64 - 2, 1]).cfg.width) ∧
    ((runningWith wrapping 0 [2 ^ 64 - 1, 1]).mem.read 0 = .ok (2 ^ 64 - 1) ∧
      (runningWith wrapping 0 [2 ^ 64 - 1, 1]).mem.read 1 = .ok 1 ∧
      1 < (runningWith wrapping 0 [2 ^ 64 - 1, 1]).mem.length ∧
      (runningWith wrapping 0 [2 ^ 64 - 1, 1]).cfg.overflowMode = .wrap ∧
      observe (exec (.add 0 1 1) (runningWith wrapping 0 [2 ^ 64 - 1, 1])) =
        some (.running, none, 4, [2 ^ 64 - 1, 0])) :=
  ⟨⟨rfl, rfl, by decide, by decide⟩, rfl, rfl, by decide, rfl, by decide⟩

theorem witness_MulWritesTheProductAndAdvances :
    ((runningAt 0 [2 ^ 32 - 1, 2 ^ 32 + 1]).mem.read 0 = .ok (2 ^ 32 - 1) ∧
      (runningAt 0 [2 ^ 32 - 1, 2 ^ 32 + 1]).mem.read 1 = .ok (2 ^ 32 + 1) ∧
      1 < (runningAt 0 [2 ^ 32 - 1, 2 ^ 32 + 1]).mem.length ∧
      (2 ^ 32 - 1) * (2 ^ 32 + 1) < 2 ^ (runningAt 0 [2 ^ 32 - 1, 2 ^ 32 + 1]).cfg.width) ∧
    ((runningWith wrapping 0 [2 ^ 32, 2 ^ 32]).mem.read 0 = .ok (2 ^ 32) ∧
      (runningWith wrapping 0 [2 ^ 32, 2 ^ 32]).mem.read 1 = .ok (2 ^ 32) ∧
      1 < (runningWith wrapping 0 [2 ^ 32, 2 ^ 32]).mem.length ∧
      (runningWith wrapping 0 [2 ^ 32, 2 ^ 32]).cfg.overflowMode = .wrap ∧
      observe (exec (.mul 0 1 1) (runningWith wrapping 0 [2 ^ 32, 2 ^ 32])) = some (.running, none, 4, [2 ^ 32, 0])) :=
  ⟨⟨rfl, rfl, by decide, by decide⟩, rfl, rfl, by decide, rfl, by decide⟩

/-- A HALT in the last cell, without and with a step limit. -/
theorem witness_HaltStopsAndLeavesTheRest :
    (∃ u, (runningAt 4 [1, 0, 0, 0, 99]).status = .running ∧ (runningAt 4 [1, 0, 0, 0, 99]).stepLimitCheck = .ok u ∧
      (runningAt 4 [1, 0, 0, 0, 99]).mem.read (runningAt 4 [1, 0, 0, 0, 99]).ip = .ok 99) ∧
    (∃ u t, (runningWith (limited 1) 0 [99]).status = .running ∧ (runningWith (limited 1) 0 [99]).stepLimitCheck = .ok u ∧
      u.steps = 1 ∧ (runningWith (limited 1) 0 [99]).mem.read 0 = .ok 99 ∧
      step (runningWith (limited 1) 0 [99]) = .next t ∧ t.status = .halted ∧ t.steps = 1) :=
  ⟨⟨_, rfl, rfl, rfl⟩, _, _, rfl, rfl, rfl, rfl, rfl, rfl, rfl⟩

/-- Each clause at its boundary: the address `L` for each operand, the exact result `2^W`. -/
theorem witness_ArithmeticTrapsInOrder :
    ((runningAt 0 [1, 2]).mem.length ≤ 2 ∧
      observe (exec (.add 2 9 9) (runningAt 0 [1, 2])) = some (.faulted, some (.outOfBounds 2 2), 0, [1, 2])) ∧
    (1 < (runningAt 0 [1, 2]).mem.length ∧ (runningAt 0 [1, 2]).mem.length ≤ 2 ∧
      observe (exec (.mul 1 2 9) (runningAt 0 [1, 2])) = some (.faulted, some (.outOfBounds 2 2), 0, [1, 2])) ∧
    (observe (exec (.add 1 1 2) (runningAt 0 [1, 2 ^ 64 - 1])) =
      some (.faulted, some (.outOfBounds 2 2), 0, [1, 2 ^ 64 - 1])) ∧
    ((runningAt 0 [2 ^ 32, 2 ^ 32]).mem.read 0 = .ok (2 ^ 32) ∧ (runningAt 0 [2 ^ 32, 2 ^ 32]).mem.read 1 = .ok (2 ^ 32) ∧
      1 < (runningAt 0 [2 ^ 32, 2 ^ 32]).mem.length ∧ 2 ^ (runningAt 0 [2 ^ 32, 2 ^ 32]).cfg.width ≤ 2 ^ 32 * 2 ^ 32 ∧
      (runningAt 0 [2 ^ 32, 2 ^ 32]).cfg.overflowMode = .fault) :=
  ⟨by decide, by decide, by decide, rfl, rfl, by decide, by decide, rfl⟩

theorem witness_ArithmeticWritesItsCellAndIpOnly :
    ∃ t, (runningAt 0 [1, 0, 0, 0]).status = .running ∧ exec (.add 0 0 3) (runningAt 0 [1, 0, 0, 0]) = .next t ∧
      t.status = .running := ⟨_, rfl, rfl, rfl⟩

theorem witness_ArithmeticTrapLeavesMemoryAndIp :
    ∃ t, (runningAt 0 [1, 0, 0, 0]).status = .running ∧ exec (.mul 0 0 4) (runningAt 0 [1, 0, 0, 0]) = .next t ∧
      t.status ≠ .running := ⟨_, rfl, rfl, by decide⟩

theorem witness_StepRunsTheDecodedInstruction :
    (∃ u, (runningAt 4 [1, 0, 0, 0, 99]).status = .running ∧ (runningAt 4 [1, 0, 0, 0, 99]).stepLimitCheck = .ok u ∧
      decode ((runningAt 4 [1, 0, 0, 0, 99]).mem.cells.drop 4) = .ok (.hlt, [])) ∧
    (∃ u, (runningWith (limited 1) 0 [2, 0, 0, 3]).status = .running ∧
      (runningWith (limited 1) 0 [2, 0, 0, 3]).stepLimitCheck = .ok u ∧
      decode ((runningWith (limited 1) 0 [2, 0, 0, 3]).mem.cells.drop 0) = .ok (.mul 0 0 3, [])) :=
  ⟨⟨_, rfl, rfl, rfl⟩, _, rfl, rfl, rfl⟩

theorem witness_FetchBeyondTheImageRaisesOutOfBounds :
    ∃ u, (runningAt 4 [1, 0, 0, 0]).status = .running ∧ (runningAt 4 [1, 0, 0, 0]).stepLimitCheck = .ok u ∧
      (runningAt 4 [1, 0, 0, 0]).mem.length ≤ (runningAt 4 [1, 0, 0, 0]).ip :=
  ⟨_, rfl, rfl, by decide⟩

/-- The two boundary places of R66, under both orders: the last place with all three cells (`ip + 3 = L - 1`) and the
first without (`ip + 3 = L`). -/
theorem witness_IllegalOpcodesRaise :
    observe (step (runningAt 0 [3, 0, 0, 0])) = some (.faulted, some (.unknownOpcode 3), 0, [3, 0, 0, 0]) ∧
    observe (step (runningWith early 0 [3])) = some (.faulted, some (.unknownOpcode 3), 0, [3]) ∧
    observe (step (runningAt 0 [3, 0, 0])) = some (.faulted, some (.outOfBounds 3 3), 0, [3, 0, 0]) ∧
    (∃ u, (runningAt 0 [3, 0, 0]).status = .running ∧ (runningAt 0 [3, 0, 0]).stepLimitCheck = .ok u ∧
      (runningAt 0 [3, 0, 0]).mem.read 0 = .ok 3 ∧ (runningAt 0 [3, 0, 0]).cfg.decodeOrder = .operandsFirst) :=
  ⟨by decide, by decide, by decide, _, rfl, rfl, rfl, rfl⟩

/-- One state for each entry of the list of raises, in its order, and two for its end. -/
theorem witness_StepReportsTheFirstRaise :
    (runningWith (limited 0) 9 []).firstRaise = some (.stepLimitExceeded 0) ∧
    (runningAt 1 [1]).firstRaise = some (.outOfBounds 1 1) ∧
    (runningAt 0 [99]).firstRaise = none ∧
    (runningWith early 0 [3]).firstRaise = some (.unknownOpcode 3) ∧
    (runningAt 0 [3]).firstRaise = some (.outOfBounds 1 1) ∧
    (runningAt 0 [1, 9]).firstRaise = some (.outOfBounds 2 2) ∧
    (runningAt 0 [1, 9, 9]).firstRaise = some (.outOfBounds 3 3) ∧
    (runningAt 0 [3, 9, 9, 9]).firstRaise = some (.unknownOpcode 3) ∧
    (runningAt 0 [1, 4, 9, 9]).firstRaise = some (.outOfBounds 4 4) ∧
    (runningAt 0 [1, 3, 4, 9]).firstRaise = some (.outOfBounds 4 4) ∧
    (runningAt 0 [1, 3, 3, 4]).firstRaise = some (.outOfBounds 4 4) ∧
    (runningAt 0 [2, 4, 4, 0, 2 ^ 32]).firstRaise = some (.arithmeticOverflow 2 (2 ^ 32) (2 ^ 32)) ∧
    (runningWith wrapping 0 [2, 4, 4, 0, 2 ^ 32]).firstRaise = none ∧
    (runningAt 0 [2, 4, 4, 0, 2 ^ 32]).status = .running := by decide

theorem witness_StepLimitCountsAttempts :
    (∃ t, (runningAt 0 [99]).cfg.stepLimit = none ∧ step (runningAt 0 [99]) = .next t ∧ t.steps = 0) ∧
    (∃ t, (runningWith (limited 1) 0 [99]).cfg.stepLimit = some 1 ∧ (runningWith (limited 1) 0 [99]).steps < 1 ∧
      step (runningWith (limited 1) 0 [99]) = .next t ∧ t.steps = 1) ∧
    (∃ t, (runningWith (limited 0) 0 [99]).cfg.stepLimit = some 0 ∧ 0 ≤ (runningWith (limited 0) 0 [99]).steps ∧
      step (runningWith (limited 0) 0 [99]) = .next t ∧ t.fault = some (.stepLimitExceeded 0)) :=
  ⟨⟨_, rfl, rfl, rfl⟩, ⟨_, rfl, by decide, rfl, rfl⟩, _, rfl, by decide, rfl, rfl⟩

theorem witness_IpOnlyEverAdvancesByFour :
    (∃ t, step (runningAt 0 [2, 0, 0, 0]) = .next t ∧ t.ip = 4) ∧ (∃ t, step (runningAt 0 [99]) = .next t ∧ t.ip = 0) ∧
    (∃ t, step (runningAt 0 []) = .next t ∧ t.ip = 0) :=
  ⟨⟨_, rfl, rfl⟩, ⟨_, rfl, rfl⟩, _, rfl, rfl⟩

/-- An ADD of 90 and 9 over a cell that was no opcode, under a limit that lets two attempts pass; and a MUL that gives 99
only mod `2^7` (`5 * 71 = 355 = 99 + 2 * 128`). -/
theorem witness_WrittenHaltStopsTheNextStep :
    (∃ u t v, let s := runningWith (limited 2) 0 [1, 5, 6, 4, 7, 90, 9]
      s.status = .running ∧ s.stepLimitCheck = .ok u ∧ s.mem.read s.ip = .ok 1 ∧ s.mem.read (s.ip + 1) = .ok 5 ∧
      s.mem.read (s.ip + 2) = .ok 6 ∧ s.mem.read (s.ip + 3) = .ok (s.ip + 4) ∧ s.ip + 4 < s.mem.length ∧
      s.mem.read 5 = .ok 90 ∧ s.mem.read 6 = .ok 9 ∧ 90 + 9 = 99 ∧ 99 < 2 ^ s.cfg.width ∧ step s = .next t ∧
      t.stepLimitCheck = .ok v) ∧
    (∃ u, let s := runningWith { narrow with overflowMode := .wrap } 0 [2, 5, 6, 4, 7, 5, 71]
      s.status = .running ∧ s.stepLimitCheck = .ok u ∧ s.mem.read s.ip = .ok 2 ∧ s.mem.read (s.ip + 1) = .ok 5 ∧
      s.mem.read (s.ip + 2) = .ok 6 ∧ s.mem.read (s.ip + 3) = .ok (s.ip + 4) ∧ s.ip + 4 < s.mem.length ∧
      s.mem.read 5 = .ok 5 ∧ s.mem.read 6 = .ok 71 ∧ s.cfg.overflowMode = .wrap ∧ 5 * 71 % 2 ^ s.cfg.width = 99) :=
  ⟨⟨_, _, _, rfl, rfl, rfl, rfl, rfl, rfl, by decide, rfl, rfl, rfl, by decide, rfl, rfl⟩,
    _, rfl, rfl, rfl, rfl, rfl, rfl, by decide, rfl, rfl, rfl, by decide⟩

/-- The first instruction after reset, in a run on the table word's four cells. -/
theorem witness_FetchWordIsRunByTheNextStep :
    ∃ u, State.reset.cfg.width = tableCellBits ∧ (Instr.mul 1 2 3).wellFormed tableCellBits = true ∧
      (State.reset.withFetchWord (4 * tableCellBits) (encodeTableWord (.mul 1 2 3))).stepLimitCheck = .ok u ∧
      observe (step (State.reset.withFetchWord (4 * tableCellBits) (encodeTableWord (.mul 1 2 3)))) =
        some (.running, none, 4, [2, 1, 2, 2]) :=
  ⟨_, rfl, by decide, rfl, by decide⟩

theorem pending_waits (r : Request) : (pending r).Pending r := ⟨by simp [pending, State.reset, State.resetWith], rfl, rfl⟩

theorem witness_RunStartsAtZero :
    ((pending (.run { cells := [99] })).Pending (.run { cells := [99] }) ∧
      Memory.wf (pending (.run { cells := [99] })).cfg.width { cells := [99] } = true) ∧
    ((pending (.direct "1,0,0,0,99".toList 12 2)).Pending (.direct "1,0,0,0,99".toList 12 2) ∧
      12 < 2 ^ State.reset.cfg.width ∧ 2 < 2 ^ State.reset.cfg.width ∧
      load Config.default "1,0,0,0,99".toList = .ok { cells := [1, 0, 0, 0, 99] } ∧
      Memory.patch { cells := [1, 0, 0, 0, 99] } 12 2 = .ok { cells := [1, 12, 2, 0, 99] }) ∧
    ((searchingAt 3 4 .idle []).status = .idle ∧ (searchingAt 3 4 .idle []).activity = .search ∧
      (searchingAt 3 4 .idle []).base.copy.patch 3 4 = .ok { cells := [1, 3, 4, 0, 99] }) :=
  ⟨⟨pending_waits _, by decide⟩, ⟨pending_waits _, by decide, by decide, rfl, rfl⟩, rfl, rfl, rfl⟩

/-- The bound is reached: `L = 4` takes two attempts. -/
theorem witness_EveryRunEndsWithinItsBound :
    Memory.length { cells := [1, 0, 0, 0] } / 4 + 1 ≤ 2 ∧
    (runLoop 1 (State.reset.startRun { cells := [1, 0, 0, 0] })).status = .running ∧
    (runLoop 2 (State.reset.startRun { cells := [1, 0, 0, 0] })).status = .faulted := by decide

/-- `N = L / 4 + 1` does not fire; `N` one smaller does. -/
theorem witness_LargeStepLimitNeverFires :
    Memory.length { cells := [1, 0, 0, 0] } / 4 + 1 ≤ 2 ∧
    (run (limited 2) { cells := [1, 0, 0, 0] }).fault = some (.outOfBounds 4 4) ∧
    (run (limited 1) { cells := [1, 0, 0, 0] }).fault = some (.stepLimitExceeded 1) := by decide

/-- A run that halts (G2) and one that does not (`[1,0,0,0]`). -/
theorem witness_RunEndsWhereItsLastStepStood :
    SafeRun Config.default { cells := [1, 0, 0, 0, 99] } ∧ ¬ SafeRun Config.default { cells := [1, 0, 0, 0] } := by
  unfold SafeRun
  decide

theorem witness_RunKeepsLengthAndCellRange :
    Memory.wf State.reset.cfg.width { cells := [1, 0, 0, 0, 99, 2 ^ 64 - 1] } = true := by decide

/-- A pair of blocks with different pasts and the same parameters. -/
theorem witness_NothingOfEarlierRunsSurvives :
    (searchingAt 7 8 .faulted [5]).cfg = State.reset.cfg ∧ searchingAt 7 8 .faulted [5] ≠ State.reset := by decide

theorem witness_FaultsArePrecise :
    ∃ t, (runningWith (limited 5) 0 [1, 9, 9, 9]).status = .running ∧
      step (runningWith (limited 5) 0 [1, 9, 9, 9]) = .next t ∧ t.status = .faulted ∧ t.steps = 1 :=
  ⟨_, rfl, rfl, rfl, rfl⟩

theorem witness_FinishedRunTakesNoFurtherStep :
    ({ runningAt 0 [99] with status := .halted } : State).status = .halted ∧
      ({ runningAt 0 [99] with status := .halted } : State).activity = .run ∧
    ({ runningAt 0 [3] with status := .faulted, activity := .direct } : State).status = .faulted ∧
      ({ runningAt 0 [3] with status := .faulted, activity := .direct } : State).activity = .direct :=
  ⟨rfl, rfl, rfl, rfl⟩

theorem witness_TransactionsStartFromTheParametersAlone :
    (pending (.load [])).Pending (.load []) ∧
    ({ pending (.load []) with status := .halted, noun := 5, mem := { cells := [99] } } : State).Pending (.load []) :=
  ⟨pending_waits _, by simp, rfl, rfl⟩

/-- The invariant of the small states used below. -/
theorem pending_inv (r : Request) : (pending r).Inv := by
  constructor <;> simp [pending, State.reset, State.resetWith, Config.default, Memory.empty_wf]

theorem running_inv : (runningAt 4 [1, 0, 0, 0, 99]).Inv := by
  constructor <;> simp [runningAt, State.reset, State.resetWith, Config.default, Memory.wf, Memory.length, Memory.empty]

theorem searching_inv : (searchingAt 99 99 .running [1, 99, 99, 0, 99]).Inv := by
  constructor <;> simp [searchingAt, State.reset, State.resetWith, Config.default, Memory.wf, Memory.length]

/-- The start of a transaction, and a step of a run in a search. -/
theorem witness_EveryStepKeepsTheInvariant :
    (∃ t, (pending (.load [])).Inv ∧ step (pending (.load [])) = .next t) ∧
    (∃ t, (searchingAt 99 99 .running [1, 99, 99, 0, 99]).Inv ∧
      step (searchingAt 99 99 .running [1, 99, 99, 0, 99]) = .next t) :=
  ⟨⟨_, pending_inv _, rfl⟩, _, searching_inv, rfl⟩

/-- An idle block with nothing pending, one with a transaction pending, and one inside a transaction. -/
theorem witness_SubmittingKeepsTheInvariant :
    (State.reset.activity = .idle ∧ State.reset.request = none ∧ State.reset.status ≠ .running ∧
      (State.reset.submit (.load [])).request = some (.load [])) ∧
    ((pending (.load [])).Inv ∧ (pending (.load [])).request ≠ none) ∧ (runningAt 4 [1, 0, 0, 0, 99]).activity ≠ .idle :=
  ⟨⟨rfl, rfl, by decide, rfl⟩, ⟨pending_inv _, by simp [pending]⟩, by simp [runningAt]⟩

theorem witness_NoStepStopsInsideATransaction :
    (runningAt 4 [1, 0, 0, 0, 99]).Inv ∧ (runningAt 4 [1, 0, 0, 0, 99]).status = .running := ⟨running_inv, rfl⟩

/-- A step of a run; the start of a run; and the ends of a halted and of a faulted run, whose status stays. -/
theorem witness_StatusTransitions :
    (∃ t, step (runningAt 0 [99]) = .next t ∧ (runningAt 0 [99]).status = .running ∧ t.status = .halted) ∧
    (∃ t, step (pending (.run { cells := [99] })) = .next t ∧ (pending (.run { cells := [99] })).status ≠ .running ∧
      t.status = .running) ∧
    (∃ t, step { runningAt 0 [99] with status := .halted } = .next t ∧ t.status = .halted) ∧
    (∃ t, step { runningAt 0 [3] with status := .faulted } = .next t ∧ t.status = .faulted) :=
  ⟨⟨_, rfl, rfl, rfl⟩, ⟨_, rfl, by decide, rfl⟩, ⟨_, rfl, rfl⟩, _, rfl, rfl⟩

theorem witness_LoadedCellsAreTheTokenValues :
    load Config.default "99, 500 ,0".toList = .ok { cells := [99, 500, 0] } ∧
    (∀ tok ∈ splitCommas (firstLine "99, 500 ,0".toList), ∃ v, parseToken Config.default tok = .ok v) := by
  refine ⟨rfl, fun tok h => ?_⟩
  have : splitCommas (firstLine "99, 500 ,0".toList) = ["99".toList, " 500 ".toList, "0".toList] := rfl
  rw [this] at h
  simp only [List.mem_cons, List.not_mem_nil, or_false] at h
  rcases h with rfl | rfl | rfl <;> exact ⟨_, rfl⟩

theorem witness_LoadedLengthIsCommasPlusOne : load Config.default "7".toList = .ok { cells := [7] } := rfl

/-- The first invalid token is the second; a value of exactly `2^W` is none (R125). -/
theorem witness_LoadReportsTheFirstInvalidToken :
    load Config.default "1, x ,y".toList = .error (.parseError ['x']) ∧
    load narrow "128".toList = .error (.parseError "128".toList) ∧ load narrow "127".toList = .ok { cells := [127] } :=
  ⟨rfl, rfl, rfl⟩

/-- The two forms of a valid token. -/
theorem witness_ValidTokensAreDecimalNumerals :
    parseToken Config.default " 009 ".toList = .ok 9 ∧ parseToken plus "+0".toList = .ok 0 := ⟨rfl, rfl⟩

/-- The bounds of the set, codes 9, 13 and 32 in and 8, 14, 31 and 33 out; and a token with whitespace inside. -/
theorem witness_WhitespaceAroundATokenIsIgnored :
    ([9, 13, 32].all fun n => (decide (9 ≤ (Char.ofNat n).toNat) && decide ((Char.ofNat n).toNat ≤ 13)) ||
      (Char.ofNat n).toNat == 32) = true ∧
    trim ([9, 13, 32].map Char.ofNat ++ "1 2".toList ++ [10, 11, 12].map Char.ofNat) = "1 2".toList ∧
    ([8, 14, 31, 33].all fun n => trim [Char.ofNat n] == [Char.ofNat n]) = true := by decide

theorem witness_TextOfCellsLoadsBack :
    [0, 127] ≠ [] ∧ (∀ v ∈ [0, 127], v < 2 ^ narrow.width) ∧ programText [0, 127] = "0,127".toList :=
  ⟨by simp, by decide, rfl⟩

/-- On `[1,0,0,0,99]` with target 2 the pair `(0, 0)` hits, on `[1,0,1,0,99]` with target 1 it does not and `(0, 1)`
is returned. -/
theorem witness_SearchReturnsTheFirstMatch :
    search Config.default { cells := [1, 0, 0, 0, 99] } 2 = some (0, 0) ∧
    trialMatches Config.default { cells := [1, 0, 1, 0, 99] } 1 0 0 = false ∧
    search Config.default { cells := [1, 0, 1, 0, 99] } 1 = some (0, 1) ∧ PairBefore 0 0 0 1 :=
  ⟨rfl, rfl, rfl, .inr ⟨rfl, by decide⟩⟩

theorem witness_BaseImageIsNeverWritten :
    ∃ t, (searchingAt 3 4 .idle []).activity = .search ∧ step (searchingAt 3 4 .idle []) = .next t ∧
      (searchingAt 3 4 .idle []).status = .idle ∧ t.status = .running ∧ t.mem.cells = [1, 3, 4, 0, 99] :=
  ⟨_, rfl, rfl, rfl, rfl, rfl⟩

/-- A faulted trial at each of the three places of a pair, one that halted on another value, and a patch that faults. -/
theorem witness_TrialFaultsAreContained :
    ((searchingAt 99 98 .faulted [3]).activity = .search ∧ (searchingAt 99 98 .faulted [3]).status = .faulted ∧
      (searchingAt 99 98 .faulted [3]).verb < 99) ∧
    (99 ≤ (searchingAt 98 99 .faulted [3]).verb ∧ (searchingAt 98 99 .faulted [3]).noun < 99) ∧
    (99 ≤ (searchingAt 99 99 .faulted [3]).verb ∧ 99 ≤ (searchingAt 99 99 .faulted [3]).noun) ∧
    (∃ t, (searchingAt 0 0 .halted [3]).status = .halted ∧
      (searchingAt 0 0 .halted [3]).mem.read 0 ≠ .ok (searchingAt 0 0 .halted [3]).target ∧
      step (searchingAt 0 0 .halted [3]) = .next t ∧ t.verb = 1) ∧
    (∃ t, ({ searchingAt 0 0 .idle [] with base := { cells := [1, 0] } } : State).base.length < 3 ∧
      step { searchingAt 0 0 .idle [] with base := { cells := [1, 0] } } = .next t ∧ t.verb = 1) :=
  ⟨⟨rfl, rfl, by decide⟩, by decide, by decide,
    ⟨_, rfl, by simp [searchingAt, Memory.read], rfl, rfl⟩, _, by decide, rfl, rfl⟩

theorem witness_MatchEndsTheSearchAtOnce :
    (searchingAt 3 4 .halted [2]).activity = .search ∧ (searchingAt 3 4 .halted [2]).status = .halted ∧
    (searchingAt 3 4 .halted [2]).mem.read 0 = .ok (searchingAt 3 4 .halted [2]).target ∧
    (∃ t, step { searchingAt 3 4 .halted [2] with activity := .calibrate } = .next t ∧
      t.reply = some (.foundChecksum 3 4 304)) :=
  ⟨rfl, rfl, rfl, _, rfl, rfl⟩

theorem witness_UnreachableSearchesFindNothing :
    Memory.length { cells := [1, 0] } < 3 ∧
    (Memory.wf narrow.width { cells := [1, 0, 0, 0, 99] } = true ∧ 7 ≤ narrow.width ∧ 2 ^ narrow.width ≤ 128) := by decide

theorem witness_PairsAdvanceOneAtATime :
    ∃ t, (searchingAt 99 99 .running [1, 99, 99, 0, 99]).Inv ∧
      (searchingAt 99 99 .running [1, 99, 99, 0, 99]).sstatus = .searching ∧
      step (searchingAt 99 99 .running [1, 99, 99, 0, 99]) = .next t := ⟨_, searching_inv, rfl, rfl⟩

/-- A search goes on; and a `SEARCH` starts from `Idle`. -/
theorem witness_SearchStatusTransitions :
    (∃ t, (searchingAt 99 99 .running [1, 99, 99, 0, 99]).Inv ∧
      step (searchingAt 99 99 .running [1, 99, 99, 0, 99]) = .next t ∧
      (searchingAt 99 99 .running [1, 99, 99, 0, 99]).sstatus = .searching) ∧
    (∃ t, (pending (.search { cells := [99] } 5)).Inv ∧ step (pending (.search { cells := [99] } 5)) = .next t ∧
      (pending (.search { cells := [99] } 5)).sstatus ≠ .searching ∧
      t.sstatus ≠ (pending (.search { cells := [99] } 5)).sstatus) :=
  ⟨⟨_, searching_inv, rfl, rfl⟩, _, pending_inv _, rfl, by decide, by decide⟩

theorem witness_LoadTransactionReachesItsResult : (pending (.load "1,x".toList)).Pending (.load "1,x".toList) :=
  pending_waits _

theorem witness_RunTransactionReachesItsResult :
    (pending (.run { cells := [1, 0, 0, 0, 99] })).Pending (.run { cells := [1, 0, 0, 0, 99] }) ∧
    Memory.wf State.reset.cfg.width { cells := [1, 0, 0, 0, 99] } = true := ⟨pending_waits _, by decide⟩

/-- The bound of a patch value; and a text that does not load, with a patch value beyond it. -/
theorem witness_DirectTransactionReachesItsResult :
    ((pending (.direct "1,0,0,0,99".toList 4 (2 ^ 64 - 1))).Pending (.direct "1,0,0,0,99".toList 4 (2 ^ 64 - 1)) ∧
      4 < 2 ^ State.reset.cfg.width ∧ 2 ^ 64 - 1 < 2 ^ State.reset.cfg.width) ∧
    ((pending (.direct "x".toList (2 ^ 64) 0)).Pending (.direct "x".toList (2 ^ 64) 0) ∧
      load State.reset.cfg "x".toList = .error (.parseError ['x'])) :=
  ⟨⟨pending_waits _, by decide, by decide⟩, pending_waits _, rfl⟩

theorem witness_SearchTransactionReachesItsResult :
    (pending (.search { cells := [1, 0, 0, 0, 99] } 2)).Pending (.search { cells := [1, 0, 0, 0, 99] } 2) ∧
    Memory.wf State.reset.cfg.width { cells := [1, 0, 0, 0, 99] } = true ∧ 7 ≤ State.reset.cfg.width :=
  ⟨pending_waits _, by decide, by decide⟩

/-- The least `W` of a search; and with `W = 6` a text that does not load, whose error is the reply (R165). -/
theorem witness_CalibrateTransactionReachesItsResult :
    (({ pending (.calibrate "99".toList 5) with cfg := narrow } : State).Pending (.calibrate "99".toList 5) ∧
      7 ≤ ({ pending (.calibrate "99".toList 5) with cfg := narrow } : State).cfg.width) ∧
    (({ pending (.calibrate "x".toList 5) with cfg := { narrow with width := 6 } } : State).Pending
        (.calibrate "x".toList 5) ∧
      load { narrow with width := 6 } "x".toList = .error (.parseError ['x']) ∧
      ∃ t, step { pending (.calibrate "x".toList 5) with cfg := { narrow with width := 6 } } = .next t ∧
        t.reply = some (.error (.parseError ['x']))) :=
  ⟨⟨⟨by simp [pending, State.reset, State.resetWith], rfl, rfl⟩, by decide⟩,
    ⟨by simp [pending, State.reset, State.resetWith], rfl, rfl⟩, rfl, _, rfl, rfl⟩

/-- An error of each of the three places, and a value (`DIRECT` on G2's image with the patch `(4, 4)`: `99 + 99`). -/
theorem witness_DirectRunErrorsAreFatal :
    load Config.default "1,,2".toList = .error (.parseError []) ∧
    (load Config.default "99,0".toList = .ok { cells := [99, 0] } ∧
      Memory.patch { cells := [99, 0] } 12 2 = .error (.outOfBounds 2 2)) ∧
    (load Config.default "3,0,0,0".toList = .ok { cells := [3, 0, 0, 0] } ∧
      Memory.patch { cells := [3, 0, 0, 0] } 12 2 = .ok { cells := [3, 12, 2, 0] } ∧
      (run Config.default { cells := [3, 12, 2, 0] }).fault = some (.unknownOpcode 3)) ∧
    direct Config.default "1,0,0,0,99".toList 4 4 = .value 198 :=
  ⟨rfl, ⟨rfl, rfl⟩, ⟨rfl, rfl, rfl⟩, rfl⟩

theorem witness_CalibrationChecksumIsExact :
    calibrate Config.default "1,0,1,0,99".toList 1 = .foundChecksum 0 1 1 := rfl

/-- Both answers for each transaction that can be refused, at the bounds; and the two that load first, on a text that does
not load. -/
theorem witness_OnlyInadmissibleTransactionsAreRefused :
    (pending (.load [])).Pending (.load []) ∧ Request.admitted Config.default (.load []) = true ∧
    Request.admitted narrow (.run { cells := [127] }) = true ∧ Request.admitted narrow (.run { cells := [128] }) = false ∧
    Request.admitted narrow (.direct ['1'] 127 0) = true ∧ Request.admitted narrow (.direct ['1'] 0 128) = false ∧
    Request.admitted narrow (.direct [] 0 128) = true ∧
    Request.admitted narrow (.search { cells := [127] } 500) = true ∧
    Request.admitted { narrow with width := 6 } (.search { cells := [] } 0) = false ∧
    Request.admitted { narrow with width := 6 } (.calibrate ['1'] 0) = false ∧
    Request.admitted { narrow with width := 6 } (.calibrate [] 0) = true :=
  ⟨pending_waits _, by decide⟩

end Sys2Proof.Tests
end

section
/-! PROOF. What a step of the core and a run keep of the image and of the parameters (10_state.md R23). -/

namespace Sys2Proof.Machine

variable {s t : State}

/-- A step of the core writes no parameter (R8). -/
theorem coreStep_cfg (h : coreStep s = .next t) : t.cfg = s.cfg := by
  rw [coreStep_frame h]

/-- The image after a step of the core: the image before it, or that image after one write of a cell value. -/
theorem coreStep_mem_cases (h : coreStep s = .next t) :
    t.mem = s.mem ∨ ∃ d r, r < 2 ^ s.cfg.width ∧ s.mem.write d r = .ok t.mem := by
  obtain ⟨u, hu, ⟨d, r, hd, hr, -, rfl⟩ | ⟨-, rfl⟩ | ⟨f, rfl⟩⟩ := coreStep_cases h
  · exact .inr ⟨d, r, hr, Memory.write_of_lt hd⟩
  · left; rcases hu with rfl | rfl <;> simp
  · left; rcases hu with rfl | rfl <;> simp

theorem coreStep_keeps_length (h : coreStep s = .next t) : t.mem.length = s.mem.length := by
  rcases coreStep_mem_cases h with hsame | ⟨d, r, -, hwrite⟩
  · rw [hsame]
  · exact Memory.write_length hwrite

theorem coreStep_keeps_wf (hm : s.mem.wf s.cfg.width = true) (h : coreStep s = .next t) :
    t.mem.wf t.cfg.width = true := by
  rw [coreStep_cfg h]
  rcases coreStep_mem_cases h with hsame | ⟨d, r, hr, hwrite⟩
  · rwa [hsame]
  · exact Memory.write_keeps_wf hm hr hwrite

@[simp] theorem runLoop_cfg (k : Nat) (s : State) : (runLoop k s).cfg = s.cfg :=
  runLoop_induction (P := fun t => t.cfg = s.cfg) (fun _ _ hs _ h => (coreStep_cfg h).trans hs) k s rfl

theorem runLoop_keeps_length (k : Nat) (s : State) : (runLoop k s).mem.length = s.mem.length :=
  runLoop_induction (P := fun t => t.mem.length = s.mem.length)
    (fun _ _ hs _ h => (coreStep_keeps_length h).trans hs) k s rfl

theorem runLoop_keeps_wf (k : Nat) (hm : s.mem.wf s.cfg.width = true) : (runLoop k s).mem.wf s.cfg.width = true := by
  have hinv := runLoop_induction (P := fun t => t.mem.wf t.cfg.width = true)
    (fun _ _ hs _ h => coreStep_keeps_wf hs h) k s hm
  rwa [runLoop_cfg] at hinv

/-- Settles O27: a step writes at most one cell, inside the image and with a reduced value, so length and cell range are
invariants of the loop of R91. -/
theorem runKeepsLengthAndCellRange : Obligations.RunKeepsLengthAndCellRange := by
  unfold Obligations.RunKeepsLengthAndCellRange
  intro s m k hm
  exact ⟨runLoop_keeps_length k (s.startRun m), runLoop_keeps_wf (s := s.startRun m) k hm⟩

end Sys2Proof.Machine
end

section
/-! PROOF. What a read and a write of the memory image do (20_memory.md R42, R43). -/

namespace Sys2Proof.Machine

/-- Settles O1: a read is the list lookup at the address, and from the length on its one answer is the fault. -/
theorem readReturnsTheCellOrRaisesOutOfBounds : Obligations.ReadReturnsTheCellOrRaisesOutOfBounds := by
  unfold Obligations.ReadReturnsTheCellOrRaisesOutOfBounds
  intro m addr
  constructor
  · intro hlt
    exact Memory.read_eq_ok.mpr (List.getElem?_eq_getElem hlt)
  · exact Memory.read_of_le

/-- Settles O2: below the length the written image is the old one with one cell set, and the read-after-write laws say
what each address then holds; from the length on the bounds check refuses the write. -/
theorem writeChangesExactlyOneCellOrRaisesOutOfBounds :
    Obligations.WriteChangesExactlyOneCellOrRaisesOutOfBounds := by
  unfold Obligations.WriteChangesExactlyOneCellOrRaisesOutOfBounds
  intro m addr v
  constructor
  · intro hlt
    have hwrite := Memory.write_of_lt (v := v) hlt
    exact ⟨_, hwrite, Memory.write_length hwrite, Memory.read_write_same hwrite,
      fun _ hne => Memory.read_write_other hwrite hne⟩
  · exact Memory.write_of_le

end Sys2Proof.Machine
end

section
/-! PROOF. What the decode function answers, what a step makes of the fetch's answer, and the illegal opcodes
(30_encoding.md R66, R69). -/

namespace Sys2Proof.Machine

variable {s u : State} {i : Instr} {f : FaultRecord} {e : DecodeError} {op c1 c2 c3 : Nat}

/-! ### The decode function -/

theorem decodeFields_illegal (h99 : op ≠ 99) (h1 : op ≠ 1) (h2 : op ≠ 2) :
    decodeFields op c1 c2 c3 = .error (.unknownOpcode op) := by
  simp [decodeFields, h99, h1, h2]

/-- Everything the decode function can answer as an instruction (R65, R69). -/
theorem decodeFields_eq_ok :
    decodeFields op c1 c2 c3 = .ok i ↔
      (op = 99 ∧ i = .hlt) ∨ (op = 1 ∧ i = .add c1 c2 c3) ∨ (op = 2 ∧ i = .mul c1 c2 c3) := by
  by_cases h99 : op = 99
  · simp [decodeFields, h99, eq_comm]
  by_cases h1 : op = 1
  · simp [decodeFields, h1, eq_comm]
  by_cases h2 : op = 2
  · simp [decodeFields, h2, eq_comm]
  simp [decodeFields_illegal h99 h1 h2, h99, h1, h2]

/-- The decode function rejects exactly the illegal opcodes, and names the value (R66, R69). -/
theorem decodeFields_eq_error :
    decodeFields op c1 c2 c3 = .error e ↔ op ≠ 99 ∧ op ≠ 1 ∧ op ≠ 2 ∧ e = .unknownOpcode op := by
  by_cases hlegal : op = 99 ∨ op = 1 ∨ op = 2
  · rcases hlegal with rfl | rfl | rfl <;> simp [decodeFields]
  · obtain ⟨h99, h1, h2⟩ : op ≠ 99 ∧ op ≠ 1 ∧ op ≠ 2 := by simpa only [not_or] using hlegal
    simp [decodeFields_illegal h99 h1 h2, h99, h1, h2, eq_comm]

/-! ### A step from the fetch's answer -/

/-- The fetch does not see the step counter, the one register the step-limit check writes (R84, R88). -/
theorem State.stepLimitCheck_keeps_fetch (hu : s.stepLimitCheck = .ok u) : u.fetch = s.fetch := by
  rcases State.stepLimitCheck_writes hu with rfl | rfl <;> rfl

theorem step_of_running (hrun : s.status = .running) : step s = coreStep s := by
  simp [step, hrun]

/-- A fetch that answers an instruction is followed by its execution (R82). -/
theorem step_of_fetch_ok (hrun : s.status = .running) (hu : s.stepLimitCheck = .ok u) (hf : s.fetch = .ok i) :
    step s = exec i u := by
  rw [← State.stepLimitCheck_keeps_fetch hu] at hf
  simp [step_of_running hrun, coreStep, hu, hf]

/-- A fetch that raises ends the step with that fault taken (R14, R84). -/
theorem step_of_fetch_error (hrun : s.status = .running) (hu : s.stepLimitCheck = .ok u) (hf : s.fetch = .error f) :
    step s = .next (u.raise f) := by
  rw [← State.stepLimitCheck_keeps_fetch hu] at hf
  simp [step_of_running hrun, coreStep, hu, hf]

/-! ### What the fetch answers, from the cells -/

/-- Four cells in the image that decode to an instruction are fetched as it, under both decode orders (R82, R83). -/
theorem State.fetch_of_decodeFields (hop : s.mem.read s.ip = .ok op) (h1 : s.mem.read (s.ip + 1) = .ok c1)
    (h2 : s.mem.read (s.ip + 2) = .ok c2) (h3 : s.mem.read (s.ip + 3) = .ok c3)
    (hi : decodeFields op c1 c2 c3 = .ok i) : s.fetch = .ok i := by
  rcases decodeFields_eq_ok.mp hi with ⟨rfl, rfl⟩ | ⟨rfl, rfl⟩ | ⟨rfl, rfl⟩
  · exact State.fetch_hlt hop
  · exact State.fetch_eq_ok.mpr (.inr ⟨c1, c2, c3, h1, h2, h3, .inl ⟨hop, rfl⟩⟩)
  · exact State.fetch_eq_ok.mpr (.inr ⟨c1, c2, c3, h1, h2, h3, .inr ⟨hop, rfl⟩⟩)

/-- An illegal opcode that is checked before the fields, or whose fields are all in the image, is reported (R66, R83). -/
theorem State.fetch_illegal (hop : s.mem.read s.ip = .ok op) (h99 : op ≠ 99) (h1 : op ≠ 1) (h2 : op ≠ 2)
    (hseen : s.cfg.decodeOrder = .opcodeFirst ∨ s.ip + 3 < s.mem.length) :
    s.fetch = .error (.unknownOpcode op) := by
  refine State.fetch_eq_error.mpr (.inr ⟨op, hop, h99, ?_⟩)
  by_cases horder : s.cfg.decodeOrder = .opcodeFirst
  · exact .inl ⟨horder, h1, h2, rfl⟩
  · exact .inr ⟨fun h => horder h.1, .inr ⟨hseen.resolve_left horder, h1, h2, rfl⟩⟩

/-- With the fields fetched first, an opcode other than HALT's in the last three cells is not looked at: the first
missing field is reported, and its address is the image's length (R66, R82). -/
theorem State.fetch_missing_field (hop : s.mem.read s.ip = .ok op) (h99 : op ≠ 99)
    (horder : s.cfg.decodeOrder = .operandsFirst) (hend : s.mem.length ≤ s.ip + 3) :
    s.fetch = .error (.outOfBounds s.mem.length s.mem.length) :=
  State.fetch_eq_error.mpr (.inr ⟨op, hop, h99, .inr ⟨by simp [horder], .inl ⟨hend, rfl⟩⟩⟩)

/-! ### The obligations -/

/-- Settles O3: with its four cells in the image the fetch answers what the decode function does, and the step goes on
from there. -/
theorem decodeFunctionAndWhatItsAnswersDo : Obligations.DecodeFunctionAndWhatItsAnswersDo := by
  unfold Obligations.DecodeFunctionAndWhatItsAnswersDo
  refine ⟨fun _ _ _ => ⟨rfl, rfl, rfl⟩, fun _ _ _ _ => decodeFields_illegal, ?_⟩
  intro s u op c1 c2 c3 hrun hu hop h1 h2 h3
  constructor
  · intro i hi
    exact step_of_fetch_ok hrun hu (State.fetch_of_decodeFields hop h1 h2 h3 hi)
  · intro e he
    obtain ⟨hne99, hne1, hne2, -⟩ := decodeFields_eq_error.mp he
    exact step_of_fetch_error hrun hu (State.fetch_illegal hop hne99 hne1 hne2 (.inr (Memory.read_lt h3)))

/-- Settles O17: the fetch raises in both clauses, `UnknownOpcode` where it comes to look at the opcode and the bounds
fault where a field is missing before that. -/
theorem illegalOpcodesRaise : Obligations.IllegalOpcodesRaise := by
  unfold Obligations.IllegalOpcodesRaise
  intro s u op hrun hu hop h1 h2 h99
  constructor
  · intro hseen
    exact step_of_fetch_error hrun hu (State.fetch_illegal hop h99 h1 h2 hseen)
  · intro horder hend
    exact step_of_fetch_error hrun hu (State.fetch_missing_field hop h99 horder hend)

end Sys2Proof.Machine
end

section
/-! PROOF. The opcode fetch beyond the image (40_execution_cycle.md R81). -/

namespace Sys2Proof.Machine

variable {s : State}

/-- The opcode cell is the first one fetched, so its bounds fault comes before any other, under both decode orders
(R81, R82). -/
theorem State.fetch_beyond_image (hip : s.mem.length ≤ s.ip) :
    s.fetch = .error (.outOfBounds s.ip s.mem.length) :=
  State.fetch_eq_error.mpr (.inl ⟨hip, rfl⟩)

/-- Settles O16: the fetch raises at the opcode cell, and a step takes what its fetch raises in the state after the
step-limit check. -/
theorem fetchBeyondTheImageRaisesOutOfBounds : Obligations.FetchBeyondTheImageRaisesOutOfBounds := by
  unfold Obligations.FetchBeyondTheImageRaisesOutOfBounds
  intro s u hrun hu hip
  exact step_of_fetch_error hrun hu (State.fetch_beyond_image hip)

end Sys2Proof.Machine
end

section
/-! PROOF. What ADD and MUL leave unchanged (41_arithmetic.md R105). -/

namespace Sys2Proof.Machine

variable {s t : State} {i : Instr} {a b d : Nat}

/-- Everything `settle` can answer: the state computed, or the fault raised, taken (R14). -/
theorem State.settle_eq_next {r : Raises State} :
    s.settle r = .next t ↔ r = .ok t ∨ ∃ f, r = .error f ∧ t = s.raise f := by
  cases r <;> simp [eq_comm]

/-- A completed `arith` is one write to its destination cell, then the advance (R102). -/
theorem arith_writes_destination {op : Nat} {g : Nat → Nat → Nat} (h : arith op g a b d s = .ok t) :
    ∃ r m, s.mem.write d r = .ok m ∧ t = s.retire m := by
  obtain ⟨x, y, r, -, -, hd, -, rfl⟩ := arith_eq_ok.mp h
  exact ⟨r, _, Memory.write_of_lt hd, rfl⟩

/-- `exec_cases` for ADD and MUL, with the cell written named: it is the destination `d` (R100, R101). -/
theorem exec_arith_cases (hi : i = .add a b d ∨ i = .mul a b d) (h : exec i s = .next t) :
    (∃ r m, s.mem.write d r = .ok m ∧ t = s.retire m) ∨ ∃ f, t = s.raise f := by
  have of_arith : ∀ {op g}, s.settle (arith op g a b d s) = .next t →
      (∃ r m, s.mem.write d r = .ok m ∧ t = s.retire m) ∨ ∃ f, t = s.raise f := fun hsettle =>
    (State.settle_eq_next.mp hsettle).imp arith_writes_destination fun ⟨f, _, ht⟩ => ⟨f, ht⟩
  rcases hi with rfl | rfl
  · exact of_arith h
  · exact of_arith h

/-- Settles O13: of the two ways ADD and MUL can end only the completed one leaves the state running, and it is one write
to `d` followed by the advance of `ip`. -/
theorem arithmeticWritesItsCellAndIpOnly : Obligations.ArithmeticWritesItsCellAndIpOnly := by
  unfold Obligations.ArithmeticWritesItsCellAndIpOnly
  intro s t i a b d hi _ hexec hrun
  obtain ⟨r, m, hwrite, rfl⟩ | ⟨f, rfl⟩ := exec_arith_cases hi hexec
  · exact ⟨fun _ hne => Memory.read_write_other hwrite hne, Memory.write_length hwrite, rfl, rfl⟩
  · simp at hrun

end Sys2Proof.Machine
end

section
/-! PROOF. The change of `ip` and the end of a run by HALT (42_control.md R110, R111). -/

namespace Sys2Proof.Machine

variable {s t : State} {i : Instr}

/-- The opcode cell behind a fetched instruction: 99 for HALT, 1 or 2 for any other (R65). -/
theorem State.fetch_opcode (hf : s.fetch = .ok i) :
    (i = .hlt ∧ s.mem.read s.ip = .ok 99) ∨ (i ≠ .hlt ∧ (s.mem.read s.ip = .ok 1 ∨ s.mem.read s.ip = .ok 2)) := by
  rcases State.fetch_eq_ok.mp hf with hhlt | ⟨a, b, d, -, -, -, ⟨h1, rfl⟩ | ⟨h2, rfl⟩⟩
  · exact .inl hhlt
  · exact .inr ⟨by simp, .inl h1⟩
  · exact .inr ⟨by simp, .inr h2⟩

/-- How far a step of a running state gets (R82): the step-limit check or the fetch raises, or the fetched instruction is
executed. -/
theorem step_stages (hrun : s.status = .running) (h : step s = .next t) :
    (∃ f, t = s.raise f) ∨
    ∃ u, s.stepLimitCheck = .ok u ∧ ((∃ f, t = u.raise f) ∨ ∃ i, s.fetch = .ok i ∧ exec i u = .next t) := by
  cases hu : s.stepLimitCheck with
  | error f =>
    rw [step_of_running hrun, coreStep, hu] at h
    exact .inl ⟨f, (Host.Outcome.next.inj h).symm⟩
  | ok u =>
    refine .inr ⟨u, rfl, ?_⟩
    cases hf : s.fetch with
    | error f =>
      rw [step_of_fetch_error hrun hu hf] at h
      exact .inl ⟨f, (Host.Outcome.next.inj h).symm⟩
    | ok i => exact .inr ⟨i, rfl, by rwa [step_of_fetch_ok hrun hu hf] at h⟩

/-- Settles O20: only a completed ADD or MUL moves `ip`, and what was executed tells the opcode that was fetched; a raise
at any stage and HALT leave `ip` where it is. -/
theorem ipOnlyEverAdvancesByFour : Obligations.IpOnlyEverAdvancesByFour := by
  unfold Obligations.IpOnlyEverAdvancesByFour
  intro s t hrun hstep
  obtain ⟨f, rfl⟩ | ⟨u, hu, hstage⟩ := step_stages hrun hstep
  · exact .inr (.inr ⟨rfl, rfl⟩)
  have hip : u.ip = s.ip := by rcases State.stepLimitCheck_writes hu with rfl | rfl <;> rfl
  have hstatus : u.status = .running := by rcases State.stepLimitCheck_writes hu with rfl | rfl <;> exact hrun
  obtain ⟨f, rfl⟩ | ⟨i, hfetch, hexec⟩ := hstage
  · exact .inr (.inr ⟨hip, rfl⟩)
  obtain ⟨d, r, -, -, hne, rfl⟩ | ⟨rfl, rfl⟩ | ⟨f, -, rfl⟩ := exec_cases hexec
  · have hop := (State.fetch_opcode hfetch).resolve_left fun hhlt => hne hhlt.1
    exact .inl ⟨by simp [hip], hstatus, hop.2⟩
  · have hop := (State.fetch_opcode hfetch).resolve_right fun hother => hother.1 rfl
    exact .inr (.inl ⟨hip, rfl, hop.2⟩)
  · exact .inr (.inr ⟨hip, rfl⟩)

/-- Settles O11: a 99 at `ip` is fetched as HALT with no field read, so it runs in the last cell as anywhere; and of the
three ways a step can end only the one that read 99 is halted. -/
theorem haltStopsAndLeavesTheRest : Obligations.HaltStopsAndLeavesTheRest := by
  unfold Obligations.HaltStopsAndLeavesTheRest
  refine ⟨rfl, fun _ => rfl, ?_, ?_⟩
  · intro s u hrun hu h99
    exact step_of_fetch_ok hrun hu (State.fetch_hlt h99)
  · intro s t hrun hstep hhalted
    obtain ⟨-, hrunning, -⟩ | ⟨hip, -, h99⟩ | ⟨-, hfaulted⟩ := ipOnlyEverAdvancesByFour s t hrun hstep
    · simp [hhalted] at hrunning
    · exact ⟨h99, hip⟩
    · simp [hhalted] at hfaulted

end Sys2Proof.Machine
end

section
/-! PROOF. The cells the loader makes of the tokens (44_loader.md R127). -/

namespace Sys2Proof.Machine

variable {c : Config} {tok : Text} {toks : List Text} {vs : List Nat} {v : Nat} {text : Text} {m : Memory}

/-- The value a token has where it is valid (R124). -/
def tokenValue (c : Config) (tok : Text) : Nat := decimalValue (dropPlus c (trim tok))

/-- A token gives `v` exactly when it is valid and `v` is the value of its digits (R124). -/
theorem parseToken_eq_ok_iff_tokenValue :
    parseToken c tok = .ok v ↔ parseToken c tok = .ok (tokenValue c tok) ∧ tokenValue c tok = v := by
  constructor
  · intro h
    have hv : v = tokenValue c tok := (parseToken_ok h).1
    exact ⟨hv ▸ h, hv.symm⟩
  · rintro ⟨h, rfl⟩
    exact h

/-- The loader reads a list of tokens exactly when each of them is valid, and as the list of their values (R127). -/
theorem parseTokens_eq_ok_iff_map :
    parseTokens c toks = .ok vs ↔
      (∀ tok ∈ toks, parseToken c tok = .ok (tokenValue c tok)) ∧ toks.map (tokenValue c) = vs := by
  calc parseTokens c toks = .ok vs
    _ ↔ List.Forall₂ (fun tok v => parseToken c tok = .ok (tokenValue c tok) ∧ tokenValue c tok = v) toks vs := by
      simp only [parseTokens_eq_ok, ← parseToken_eq_ok_iff_tokenValue]
    _ ↔ (∀ tok ∈ toks, parseToken c tok = .ok (tokenValue c tok)) ∧
          List.Forall₂ Eq (toks.map (tokenValue c)) vs := by
      rw [List.forall₂_and_left, List.forall₂_map_left_iff]
    _ ↔ _ := by rw [List.forall₂_eq_eq_eq]

/-- `parseTokens_eq_ok_iff_map` for a whole text: the cells are the values of the first line's tokens (R127, R129). -/
theorem load_eq_ok_iff_map :
    load c text = .ok m ↔
      (∀ tok ∈ splitCommas (firstLine text), parseToken c tok = .ok (tokenValue c tok)) ∧
        (splitCommas (firstLine text)).map (tokenValue c) = m.cells :=
  load_eq_ok.trans parseTokens_eq_ok_iff_map

/-- Settles O39: the cells of a loaded image are the map of the tokens to their values, so length and cells are those of
a mapped list; and validity of the tokens is all a load asks for. -/
theorem loadedCellsAreTheTokenValues : Obligations.LoadedCellsAreTheTokenValues := by
  unfold Obligations.LoadedCellsAreTheTokenValues
  intro c text
  constructor
  · intro m hload
    obtain ⟨hvalid, hcells⟩ := load_eq_ok_iff_map.mp hload
    have hlength : m.length = (splitCommas (firstLine text)).length := by
      rw [Memory.length, ← hcells, List.length_map]
    refine ⟨hlength, fun i hi => ?_⟩
    have htok := List.getElem?_eq_getElem (hlength ▸ hi)
    refine ⟨_, htok, hvalid _ (List.mem_of_getElem? htok), Memory.read_eq_ok.mpr ?_⟩
    rw [← hcells, List.getElem?_map, htok]
    rfl
  · intro hvalid
    refine ⟨{ cells := _ }, load_eq_ok_iff_map.mpr ⟨fun tok hmem => ?_, rfl⟩⟩
    obtain ⟨v, hv⟩ := hvalid tok hmem
    exact (parseToken_eq_ok_iff_tokenValue.mp hv).1

end Sys2Proof.Machine
end

section
/-! PROOF. The search leaves its base image and its target alone, and starts every trial from a copy of the base
(45_search_scheduler.md R142). -/

namespace Sys2Proof.Machine

variable {s t : State}

/-- The move to the next pair starts and ends no run. -/
@[simp] theorem State.nextPair_status (s : State) : s.nextPair.status = s.status := by
  rcases s.nextPair_cases with ⟨-, h⟩ | ⟨-, -, h⟩ | ⟨-, -, h⟩ <;> simp [h]

/-- A step inside a search: the core's while a trial runs, else the scheduler's (log 6). -/
theorem step_cases_of_search (ha : s.activity = .search ∨ s.activity = .calibrate) (h : step s = .next t) :
    (s.status = .running ∧ coreStep s = .next t) ∨ (s.status ≠ .running ∧ t = s.schedule) := by
  rcases step_cases h with hcore | ⟨-, hidle, -⟩ | ⟨-, -, ⟨hrun, -⟩ | ⟨hdirect, -⟩⟩ | ⟨hr, -, ht⟩
  · exact .inl hcore
  · simp [hidle] at ha
  · simp [hrun] at ha
  · simp [hdirect] at ha
  · exact .inr ⟨hr, ht⟩

theorem State.schedule_of_idle (hs : s.status = .idle) : s.schedule = s.startTrial := by
  simp [State.schedule, hs]

/-- The start of a trial leaves the core running only on the patched copy of the base: a patch that raises starts no run
(R142, R145). -/
theorem State.startTrial_runs_patched_copy (hs : s.status = .idle) (ht : s.startTrial.status = .running) :
    s.base.copy.patch s.noun s.verb = .ok s.startTrial.mem := by
  rw [Memory.copy_eq]
  obtain ⟨m, hpatch, hstart⟩ | ⟨f, -, hnext⟩ := s.startTrial_cases
  · simpa [hstart] using hpatch
  · simp [hnext, hs] at ht

/-- A step inside a search writes neither the base nor the target, whether it is the trial's or the scheduler's (R142). -/
theorem step_of_search_keeps_base (ha : s.activity = .search ∨ s.activity = .calibrate) (h : step s = .next t) :
    t.base = s.base ∧ t.target = s.target := by
  rcases step_cases_of_search ha h with ⟨-, hcore⟩ | ⟨-, rfl⟩
  · rw [coreStep_frame hcore]
    exact ⟨rfl, rfl⟩
  · obtain ⟨hbase, htarget, -⟩ := s.schedule_keeps
    exact ⟨hbase, htarget⟩

/-- Settles O46: neither the core nor the scheduler writes the base or the target, and a step from `Idle` to `Running` is
the start of a trial, whose image is the patched copy. -/
theorem baseImageIsNeverWritten : Obligations.BaseImageIsNeverWritten := by
  unfold Obligations.BaseImageIsNeverWritten
  refine ⟨fun m => by simp, fun s t ha hstep => ?_⟩
  obtain ⟨hbase, htarget⟩ := step_of_search_keeps_base ha hstep
  refine ⟨hbase, htarget, fun hidle hrun => ?_⟩
  rcases step_cases_of_search ha hstep with ⟨hrunning, -⟩ | ⟨-, rfl⟩
  · simp [hidle] at hrunning
  · rw [State.schedule_of_idle hidle] at hrun ⊢
    exact State.startTrial_runs_patched_copy hidle hrun

end Sys2Proof.Machine
end

section
/-! PROOF. What `DIRECT` returns, and that a run it makes has halted or faulted (46_host_interface.md R163, R164;
40_execution_cycle.md R91, R93). -/

namespace Sys2Proof.Machine

variable {s t : State} {c : Config} {text : Text} {noun verb v : Nat} {m m' : Memory} {f : FaultRecord}

/-! ### A run has stopped, and without a fault it has halted -/

/-- A step after which the core still runs has advanced `ip` past four cells of the image (R93). -/
theorem coreStep_running_advances (h : coreStep s = .next t) (ht : t.status = .running) :
    t.ip = s.ip + 4 ∧ t.ip ≤ s.mem.length := by
  obtain ⟨u, hu, ⟨d, r, -, -, hwindow, rfl⟩ | ⟨-, rfl⟩ | ⟨f, rfl⟩⟩ := coreStep_cases h
  · have hip : u.ip = s.ip := by rcases hu with rfl | rfl <;> rfl
    exact ⟨by rw [State.retire_ip, hip], by rw [State.retire_ip, hip]; omega⟩
  · simp at ht
  · simp at ht

/-- With `ip` in the image's range, as many steps as take it beyond the image are all a run can take (R93). -/
theorem runLoop_stops (k : Nat) (hip : s.ip ≤ s.mem.length) (hk : s.mem.length < s.ip + 4 * k) :
    (runLoop k s).status ≠ .running := by
  induction k generalizing s with
  | zero => omega
  | succ k ih =>
    by_cases hrun : s.status = .running
    · obtain ⟨t, ht⟩ := coreStep_next s
      rw [runLoop_step k hrun ht]
      by_cases htrun : t.status = .running
      · obtain ⟨hnext, hreach⟩ := coreStep_running_advances ht htrun
        have hlength := coreStep_keeps_length ht
        exact ih (by omega) (by omega)
      · rwa [runLoop_stopped k htrun]
    · rwa [runLoop_stopped _ hrun]

theorem runOn_stops (s : State) (m : Memory) : (runOn s m).status ≠ .running :=
  runLoop_stops (s := s.startRun m) _ (by simp) (by simp; omega)

/-- A step of a running core with no fault record after it goes on or has halted (R25). -/
theorem coreStep_without_fault (hrun : s.status = .running) (h : coreStep s = .next t) (ht : t.fault = none) :
    t.status = .running ∨ t.status = .halted := by
  obtain ⟨u, hu, ⟨d, r, -, -, -, rfl⟩ | ⟨-, rfl⟩ | ⟨f, rfl⟩⟩ := coreStep_cases h
  · left; rcases hu with rfl | rfl <;> exact hrun
  · exact .inr rfl
  · simp at ht

/-- A run that leaves no fault record has halted (R25, R91, R93). -/
theorem runOn_halted_of_no_fault (hfault : (runOn s m).fault = none) : (runOn s m).status = .halted := by
  have hinv : (runOn s m).fault = none → (runOn s m).status = .running ∨ (runOn s m).status = .halted :=
    runLoop_induction (P := fun t => t.fault = none → t.status = .running ∨ t.status = .halted)
      (fun _ _ _ hrun h => coreStep_without_fault hrun h) _ (s.startRun m) fun _ => .inl rfl
  exact (hinv hfault).resolve_left (runOn_stops s m)

/-! ### What `DIRECT` returns -/

theorem State.directReply_of_fault (h : s.fault = some f) : s.directReply = .error f := by
  simp [State.directReply, h]

/-- `DIRECT` answers a value after a run without a fault only, and it is cell 0 (R164). -/
theorem State.directReply_eq_value : s.directReply = .value v ↔ s.fault = none ∧ s.mem.read 0 = .ok v := by
  cases hfault : s.fault with
  | some f => simp [State.directReply_of_fault hfault]
  | none => cases hread : s.mem.read 0 <;> simp [State.directReply, hfault, hread]

theorem direct_of_load_error (hload : load c text = .error f) : direct c text noun verb = .error f := by
  simp [direct, hload]

theorem direct_of_patch_error (hload : load c text = .ok m) (hpatch : m.patch noun verb = .error f) :
    direct c text noun verb = .error f := by
  simp [direct, hload, hpatch]

theorem direct_of_run (hload : load c text = .ok m) (hpatch : m.patch noun verb = .ok m') :
    direct c text noun verb = (run c m').directReply := by
  simp [direct, hload, hpatch]

/-- `DIRECT` returns a value only where load and patch succeed, and then the run's (R163, R164). -/
theorem direct_eq_value :
    direct c text noun verb = .value v ↔
      ∃ m m', load c text = .ok m ∧ m.patch noun verb = .ok m' ∧ (run c m').directReply = .value v := by
  cases hload : load c text with
  | error f => simp [direct_of_load_error hload]
  | ok m =>
    cases hpatch : m.patch noun verb with
    | error f => simp [direct_of_patch_error hload hpatch, hpatch]
    | ok m' => simp [direct_of_run hload hpatch, hpatch]

/-- Settles O58: the errors are the branches of `direct` in their order; a value is read after a run with no fault record,
and such a run has halted, since the loop's passes take every run to its end. -/
theorem directRunErrorsAreFatal : Obligations.DirectRunErrorsAreFatal := by
  unfold Obligations.DirectRunErrorsAreFatal
  intro c text noun verb
  refine ⟨fun _ => direct_of_load_error, fun _ _ => direct_of_patch_error, ?_, ?_⟩
  · intro m m' f hload hpatch hfault
    rw [direct_of_run hload hpatch, State.directReply_of_fault hfault]
  · intro v hvalue
    obtain ⟨m, m', hload, hpatch, hreply⟩ := direct_eq_value.mp hvalue
    obtain ⟨hfault, hread⟩ := State.directReply_eq_value.mp hreply
    exact ⟨m, m', hload, hpatch, runOn_halted_of_no_fault hfault, hread⟩

end Sys2Proof.Machine
end

section
/-! PROOF. What the step-limit check does to a step, and what a step that ends in a fault leaves unchanged
(40_execution_cycle.md R88, 60_exceptions.md R172, R173). -/

namespace Sys2Proof.Machine

variable {s t u : State} {i : Instr} {f : FaultRecord}

/-! ### The step-limit check -/

/-- Everything the step-limit check can raise (R88). -/
theorem State.stepLimitCheck_eq_error :
    s.stepLimitCheck = .error f ↔ ∃ n, s.cfg.stepLimit = some n ∧ n ≤ s.steps ∧ f = .stepLimitExceeded n := by
  cases hlimit : s.cfg.stepLimit with
  | none => simp [State.stepLimitCheck, hlimit]
  | some n => by_cases hn : n ≤ s.steps <;> simp [State.stepLimitCheck, hlimit, hn, eq_comm]

theorem State.stepLimitCheck_keeps_cfg (hu : s.stepLimitCheck = .ok u) : u.cfg = s.cfg := by
  rcases State.stepLimitCheck_writes hu with rfl | rfl <;> rfl

theorem State.stepLimitCheck_keeps_runReply (hu : s.stepLimitCheck = .ok u) : u.runReply = s.runReply := by
  rcases State.stepLimitCheck_writes hu with rfl | rfl <;> rfl

/-- A refused attempt takes the check's fault and does nothing else (R88). -/
theorem step_of_limit (hrun : s.status = .running) (hf : s.stepLimitCheck = .error f) :
    step s = .next (s.raise f) := by
  simp [step_of_running hrun, coreStep, hf]

/-! ### The step counter -/

theorem exec_keeps_steps (h : exec i s = .next t) : t.steps = s.steps := by
  obtain ⟨d, r, -, -, -, rfl⟩ | ⟨-, rfl⟩ | ⟨f, -, rfl⟩ := exec_cases h <;> rfl

/-- After the step-limit check nothing of a step writes the step counter (R88). -/
theorem step_steps (hrun : s.status = .running) (hu : s.stepLimitCheck = .ok u) (h : step s = .next t) :
    t.steps = u.steps := by
  cases hf : s.fetch with
  | error f =>
    rw [step_of_fetch_error hrun hu hf] at h
    rw [← Host.Outcome.next.inj h, State.raise_steps]
  | ok i =>
    rw [step_of_fetch_ok hrun hu hf] at h
    exact exec_keeps_steps h

/-- Settles O19: the counter after a step is the one the step-limit check leaves, and a refused attempt is the raise
alone. -/
theorem stepLimitCountsAttempts : Obligations.StepLimitCountsAttempts := by
  unfold Obligations.StepLimitCountsAttempts
  intro s t hrun hstep
  refine ⟨fun hnone => ?_, fun n hn hlt => ?_, fun n hn hle => ?_⟩
  · exact step_steps hrun (State.stepLimitCheck_eq_ok.mpr (.inl ⟨hnone, rfl⟩)) hstep
  · exact step_steps hrun (State.stepLimitCheck_eq_ok.mpr (.inr ⟨n, hn, hlt, rfl⟩)) hstep
  · rw [step_of_limit hrun (State.stepLimitCheck_eq_error.mpr ⟨n, hn, hle, rfl⟩)] at hstep
    exact (Host.Outcome.next.inj hstep).symm

/-! ### Precise faults -/

/-- Settles O30: whatever stage of a step raises, the fault is taken in the state the step began with or in the one with
the attempt counted; a completed instruction ends `Running` or `Halted`. -/
theorem faultsArePrecise : Obligations.FaultsArePrecise := by
  unfold Obligations.FaultsArePrecise
  intro s t hrun hstep hfaulted
  obtain ⟨u, rfl | rfl, ⟨d, r, -, -, -, rfl⟩ | ⟨-, rfl⟩ | ⟨f, rfl⟩⟩ :=
    coreStep_cases (step_of_running hrun ▸ hstep)
  · simp [hrun] at hfaulted
  · simp at hfaulted
  · exact ⟨f, rfl⟩
  · simp [hrun] at hfaulted
  · simp at hfaulted
  · exact ⟨f, rfl⟩

end Sys2Proof.Machine
end

section
/-! PROOF. Two runs compared attempt by attempt: what of the block, of the step limit and of the decode order a run depends
on (40_execution_cycle.md section 2, 10_state.md R35). -/

namespace Sys2Proof.Machine

variable {s t s' t' u w : State} {i : Instr} {f : FaultRecord} {m : Memory}

/-! ### The observation of a run -/

/-- What the observation of a run holds (R92). -/
theorem State.runReply_eq_iff :
    s.runReply = t.runReply ↔ s.status = t.status ∧ s.fault = t.fault ∧ s.ip = t.ip ∧ s.mem = t.mem := by
  simp [State.runReply]

theorem State.raise_runReply_congr (h : s.runReply = t.runReply) : (s.raise f).runReply = (t.raise f).runReply := by
  obtain ⟨-, -, hip, hmem⟩ := State.runReply_eq_iff.mp h
  simp [State.runReply, hip, hmem]

/-! ### What the execute part depends on -/

/-- The parameters that ADD and MUL read are the same (R8, R103). -/
def SameArithmetic (c c' : Config) : Prop := c.width = c'.width ∧ c.overflowMode = c'.overflowMode

theorem reduce_congr {c c' : Config} {op x y v : Nat} (hc : SameArithmetic c c') :
    reduce c op x y v = reduce c' op x y v := by
  obtain ⟨hwidth, hmode⟩ := hc
  simp [reduce, hwidth, hmode]

/-- ADD and MUL in two states with the same observation leave the same observation (R102). -/
theorem arith_runReply_congr {op a b d : Nat} {g : Nat → Nat → Nat} (hc : SameArithmetic s.cfg t.cfg)
    (h : s.runReply = t.runReply) (hs : s.settle (arith op g a b d s) = .next s')
    (ht : t.settle (arith op g a b d t) = .next t') : s'.runReply = t'.runReply := by
  obtain ⟨hstatus, hfault, hip, hmem⟩ := State.runReply_eq_iff.mp h
  cases hr : arith op g a b d s with
  | error f =>
    have hr' : arith op g a b d t = .error f := by
      rw [arith_eq_error] at hr ⊢
      simpa only [← hmem, ← reduce_congr hc] using hr
    rw [hr, State.settle_error] at hs
    rw [hr', State.settle_error] at ht
    rw [← Host.Outcome.next.inj hs, ← Host.Outcome.next.inj ht]
    exact State.raise_runReply_congr h
  | ok v =>
    obtain ⟨x, y, r, hx, hy, hd, hred, rfl⟩ := arith_eq_ok.mp hr
    have hr' : arith op g a b d t = .ok (t.retire { cells := t.mem.cells.set d r }) :=
      arith_eq_ok.mpr ⟨x, y, r, hmem ▸ hx, hmem ▸ hy, hmem ▸ hd, reduce_congr hc ▸ hred, rfl⟩
    rw [hr, State.settle_ok] at hs
    rw [hr', State.settle_ok] at ht
    rw [← Host.Outcome.next.inj hs, ← Host.Outcome.next.inj ht]
    simp [State.runReply, hstatus, hfault, hip, hmem]

theorem exec_runReply_congr (hc : SameArithmetic s.cfg t.cfg) (h : s.runReply = t.runReply)
    (hs : exec i s = .next s') (ht : exec i t = .next t') : s'.runReply = t'.runReply := by
  cases i with
  | add a b d => exact arith_runReply_congr hc h hs ht
  | mul a b d => exact arith_runReply_congr hc h hs ht
  | hlt =>
    obtain ⟨-, hfault, hip, hmem⟩ := State.runReply_eq_iff.mp h
    rw [← Host.Outcome.next.inj hs, ← Host.Outcome.next.inj ht]
    simp [State.runReply, hfault, hip, hmem]

/-! ### What the fetch depends on -/

theorem State.fetch_congr (hip : s.ip = t.ip) (hmem : s.mem = t.mem) (horder : s.cfg.decodeOrder = t.cfg.decodeOrder) :
    s.fetch = t.fetch := by
  simp only [State.fetch, State.fetchRest, State.fetchFields, hip, hmem, horder]

/-- Beside a fetch under `OperandsFirst`, one under either order is the same, but that the first may miss a field where
the other, checking the opcode first, finds it illegal (R83, C1). -/
theorem State.fetch_decodeOrder (hip : s.ip = t.ip) (hmem : s.mem = t.mem)
    (hs : s.cfg.decodeOrder = .operandsFirst) :
    s.fetch = t.fetch ∨
      (s.fetch = .error (.outOfBounds s.mem.length s.mem.length) ∧ ∃ op, t.fetch = .error (.unknownOpcode op)) := by
  cases hf : t.fetch with
  | ok i =>
    rw [State.fetch_eq_ok, ← hip, ← hmem] at hf
    exact .inl (State.fetch_eq_ok.mpr hf)
  | error f =>
    rw [State.fetch_eq_error, ← hip, ← hmem] at hf
    obtain hout | ⟨op, hop, h99, ⟨-, h1, h2, rfl⟩ | ⟨hlegal, hlate⟩⟩ := hf
    · exact .inl (State.fetch_eq_error.mpr (.inl hout))
    · rcases Nat.lt_or_ge (s.ip + 3) s.mem.length with hin | hend
      · exact .inl (State.fetch_illegal hop h99 h1 h2 (.inr hin))
      · exact .inr ⟨State.fetch_missing_field hop h99 hs hend, op, rfl⟩
    · exact .inl (State.fetch_eq_error.mpr (.inr ⟨op, hop, h99, .inr ⟨by simp [hs], hlate⟩⟩))

/-! ### Two steps, and two runs, side by side -/

/-- Past the step-limit check, states with the same observation and the same fetch step to the same observation. -/
theorem step_runReply_congr (hrun : s.status = .running) (hc : SameArithmetic s.cfg t.cfg)
    (h : s.runReply = t.runReply) (hfetch : s.fetch = t.fetch) (hu : s.stepLimitCheck = .ok u)
    (hw : t.stepLimitCheck = .ok w) (hs : step s = .next s') (ht : step t = .next t') : s'.runReply = t'.runReply := by
  have hrun' : t.status = .running := (State.runReply_eq_iff.mp h).1 ▸ hrun
  have huw : u.runReply = w.runReply := by
    rw [State.stepLimitCheck_keeps_runReply hu, h, State.stepLimitCheck_keeps_runReply hw]
  cases hf : s.fetch with
  | error f =>
    rw [step_of_fetch_error hrun hu hf] at hs
    rw [step_of_fetch_error hrun' hw (hfetch ▸ hf)] at ht
    rw [← Host.Outcome.next.inj hs, ← Host.Outcome.next.inj ht]
    exact State.raise_runReply_congr huw
  | ok i =>
    rw [step_of_fetch_ok hrun hu hf] at hs
    rw [step_of_fetch_ok hrun' hw (hfetch ▸ hf)] at ht
    refine exec_runReply_congr ?_ huw hs ht
    rwa [State.stepLimitCheck_keeps_cfg hu, State.stepLimitCheck_keeps_cfg hw]

/-- A relation that two runs keep while both step holds after any number of attempts. -/
theorem runLoop_lockstep {R : State → State → Prop} (hstatus : ∀ s t, R s t → s.status = t.status)
    (hstep : ∀ s t s' t', R s t → s.status = .running → step s = .next s' → step t = .next t' → R s' t')
    (k : Nat) (s t : State) (h : R s t) : R (runLoop k s) (runLoop k t) := by
  induction k generalizing s t with
  | zero => exact h
  | succ k ih =>
    by_cases hrun : s.status = .running
    · have hrun' : t.status = .running := hstatus s t h ▸ hrun
      obtain ⟨s', hs'⟩ := coreStep_next s
      obtain ⟨t', ht'⟩ := coreStep_next t
      rw [runLoop_step k hrun hs', runLoop_step k hrun' ht']
      exact ih s' t' (hstep s t s' t' h hrun (step_of_running hrun ▸ hs') (step_of_running hrun' ▸ ht'))
    · rwa [runLoop_stopped _ hrun, runLoop_stopped _ (hstatus s t h ▸ hrun)]

theorem step_keeps_cfg_of_running (hrun : s.status = .running) (h : step s = .next t) : t.cfg = s.cfg :=
  coreStep_cfg (step_of_running hrun ▸ h)

/-! ### The image and the parameters are all a run depends on -/

/-- The two blocks agree in the parameters and in the core (R35). -/
structure State.SameCore (s t : State) : Prop where
  cfg : s.cfg = t.cfg
  steps : s.steps = t.steps
  reply : s.runReply = t.runReply

/-- The step-limit check answers alike where limit and counter are the same (R88). -/
theorem State.stepLimitCheck_congr (hlimit : s.cfg.stepLimit = t.cfg.stepLimit) (hsteps : s.steps = t.steps) :
    (∃ f, s.stepLimitCheck = .error f ∧ t.stepLimitCheck = .error f) ∨
    ∃ u w, s.stepLimitCheck = .ok u ∧ t.stepLimitCheck = .ok w ∧ u.steps = w.steps := by
  cases hu : s.stepLimitCheck with
  | error f =>
    rw [State.stepLimitCheck_eq_error, hlimit, hsteps] at hu
    exact .inl ⟨f, rfl, State.stepLimitCheck_eq_error.mpr hu⟩
  | ok u =>
    rcases State.stepLimitCheck_eq_ok.mp hu with ⟨hnone, rfl⟩ | ⟨n, hn, hlt, rfl⟩
    · exact .inr ⟨_, t, rfl, State.stepLimitCheck_eq_ok.mpr (.inl ⟨hlimit ▸ hnone, rfl⟩), hsteps⟩
    · exact .inr ⟨_, t.countStep, rfl, State.stepLimitCheck_eq_ok.mpr (.inr ⟨n, hlimit ▸ hn, hsteps ▸ hlt, rfl⟩),
        congrArg (· + 1) hsteps⟩

theorem State.SameCore.step (h : s.SameCore t) (hrun : s.status = .running) (hs : step s = .next s')
    (ht : Machine.step t = .next t') : s'.SameCore t' := by
  obtain ⟨hstatus, -, hip, hmem⟩ := State.runReply_eq_iff.mp h.reply
  have hrun' : t.status = .running := hstatus ▸ hrun
  have hcfg : s'.cfg = t'.cfg := by
    rw [step_keeps_cfg_of_running hrun hs, h.cfg, step_keeps_cfg_of_running hrun' ht]
  obtain ⟨f, hu, hw⟩ | ⟨u, w, hu, hw, hcount⟩ := State.stepLimitCheck_congr (congrArg Config.stepLimit h.cfg) h.steps
  · rw [step_of_limit hrun hu] at hs
    rw [step_of_limit hrun' hw] at ht
    obtain rfl := Host.Outcome.next.inj hs
    obtain rfl := Host.Outcome.next.inj ht
    exact ⟨hcfg, h.steps, State.raise_runReply_congr h.reply⟩
  · have hfetch := State.fetch_congr hip hmem (congrArg Config.decodeOrder h.cfg)
    refine ⟨hcfg, ?_, step_runReply_congr hrun ?_ h.reply hfetch hu hw hs ht⟩
    · rw [step_steps hrun hu hs, hcount, step_steps hrun' hw ht]
    · rw [h.cfg]; exact ⟨rfl, rfl⟩

theorem State.SameCore.runLoop (h : s.SameCore t) (k : Nat) : (runLoop k s).SameCore (Machine.runLoop k t) :=
  runLoop_lockstep (fun _ _ h => (State.runReply_eq_iff.mp h.reply).1) (fun _ _ _ _ h => h.step) k s t h

theorem State.startRun_sameCore (hcfg : s.cfg = t.cfg) (m : Memory) : (s.startRun m).SameCore (t.startRun m) :=
  ⟨hcfg, rfl, rfl⟩

/-- Settles O29: a step of the core reads nothing but the core and the parameters, so two runs on one image stay in
step. -/
theorem nothingOfEarlierRunsSurvives : Obligations.NothingOfEarlierRunsSurvives := by
  unfold Obligations.NothingOfEarlierRunsSurvives
  intro s s' m k hcfg
  have hsame := (State.startRun_sameCore hcfg m).runLoop k
  exact ⟨hsame.reply, hsame.steps⟩

/-! ### A step limit that is never reached -/

/-- A run without a limit beside the same run under the limit `n`, on an image of length `L`: while they go on, every
attempt so far has advanced `ip` by four cells of the image (R93). -/
structure State.LimitUnreached (n L : Nat) (s t : State) : Prop where
  limit : s.cfg.stepLimit = some n
  noLimit : t.cfg.stepLimit = none
  arithmetic : SameArithmetic s.cfg t.cfg
  order : s.cfg.decodeOrder = t.cfg.decodeOrder
  reply : s.runReply = t.runReply
  length : s.mem.length = L
  counted : s.status = .running → s.ip = 4 * s.steps ∧ s.ip ≤ L
  unlimited : ∀ k, t.fault ≠ some (.stepLimitExceeded k)

/-- Past the step-limit check no raise of a step is that of the limit (R89). -/
theorem step_fault_of_limitCheck_ok {k : Nat} (hrun : s.status = .running) (hu : s.stepLimitCheck = .ok u)
    (h : step s = .next t) (hfault : t.fault = some (.stepLimitExceeded k)) : s.fault = some (.stepLimitExceeded k) := by
  have hkeep : u.fault = s.fault := (State.runReply_eq_iff.mp (State.stepLimitCheck_keeps_runReply hu)).2.1
  have of_arith : ∀ {op g a b d}, u.settle (arith op g a b d u) = .next t → u.fault = some (.stepLimitExceeded k) := by
    intro op g a b d hsettle
    obtain hok | ⟨f, hf, rfl⟩ := State.settle_eq_next.mp hsettle
    · obtain ⟨x, y, r, -, -, -, -, rfl⟩ := arith_eq_ok.mp hok
      exact hfault
    · obtain rfl := Option.some.inj hfault
      simp [arith_eq_error, reduce_eq_error] at hf
  cases hf : s.fetch with
  | error f =>
    rw [step_of_fetch_error hrun hu hf] at h
    obtain rfl := Host.Outcome.next.inj h
    obtain rfl := Option.some.inj hfault
    simp [State.fetch_eq_error] at hf
  | ok i =>
    rw [step_of_fetch_ok hrun hu hf] at h
    rw [← hkeep]
    cases i with
    | add a b d => exact of_arith h
    | mul a b d => exact of_arith h
    | hlt =>
      obtain rfl := Host.Outcome.next.inj h
      exact hfault

theorem State.LimitUnreached.step {n L : Nat} (hn : L / 4 + 1 ≤ n) (h : s.LimitUnreached n L t)
    (hrun : s.status = .running) (hs : step s = .next s') (ht : Machine.step t = .next t') :
    s'.LimitUnreached n L t' := by
  obtain ⟨hstatus, -, hip, hmem⟩ := State.runReply_eq_iff.mp h.reply
  obtain ⟨hcount, hreach⟩ := h.counted hrun
  have hrun' : t.status = .running := hstatus ▸ hrun
  have hu : s.stepLimitCheck = .ok s.countStep :=
    State.stepLimitCheck_eq_ok.mpr (.inr ⟨n, h.limit, by omega, rfl⟩)
  have hw : t.stepLimitCheck = .ok t := State.stepLimitCheck_eq_ok.mpr (.inl ⟨h.noLimit, rfl⟩)
  have hcore : coreStep s = .next s' := step_of_running hrun ▸ hs
  have hcfg := step_keeps_cfg_of_running hrun hs
  have hcfg' := step_keeps_cfg_of_running hrun' ht
  have hlength := (coreStep_keeps_length hcore).trans h.length
  refine ⟨hcfg ▸ h.limit, hcfg' ▸ h.noLimit, hcfg ▸ hcfg' ▸ h.arithmetic, hcfg ▸ hcfg' ▸ h.order, ?_, hlength, ?_, ?_⟩
  · exact step_runReply_congr hrun h.arithmetic h.reply (State.fetch_congr hip hmem h.order) hu hw hs ht
  · intro hgoes
    obtain ⟨hadvance, hwithin⟩ := coreStep_running_advances hcore hgoes
    have hsteps := step_steps hrun hu hs
    rw [State.countStep_steps] at hsteps
    have := h.length
    omega
  · exact fun k hk => h.unlimited k (step_fault_of_limitCheck_ok hrun' hw ht hk)

/-- Settles O25: within `L / 4 + 1` attempts every run has ended, so a limit from there on is never met and the two runs
stay in step. -/
theorem largeStepLimitNeverFires : Obligations.LargeStepLimitNeverFires := by
  unfold Obligations.LargeStepLimitNeverFires
  intro c m n hn
  have hstart : State.LimitUnreached n m.length ((State.resetWith { c with stepLimit := some n }).startRun m)
      ((State.resetWith { c with stepLimit := none }).startRun m) :=
    ⟨rfl, rfl, ⟨rfl, rfl⟩, rfl, rfl, rfl, fun _ => ⟨rfl, Nat.zero_le _⟩, fun _ => nofun⟩
  have hend := runLoop_lockstep (fun _ _ h => (State.runReply_eq_iff.mp h.reply).1)
    (fun _ _ _ _ h hrun hs ht => h.step hn hrun hs ht) (m.length / 4 + 1) _ _ hstart
  refine ⟨hend.reply, fun k => ?_⟩
  have hfault := (State.runReply_eq_iff.mp hend.reply).2.1
  exact hfault ▸ hend.unlimited k

/-! ### The two decode orders -/

/-- A run under `OperandsFirst` beside the same run under `OpcodeFirst`: the same but for the kind of a fault (R83, C1). -/
structure State.OrdersAgree (s t : State) : Prop where
  operandsFirst : s.cfg.decodeOrder = .operandsFirst
  cfg : t.cfg = { s.cfg with decodeOrder := .opcodeFirst }
  steps : s.steps = t.steps
  status : s.status = t.status
  ip : s.ip = t.ip
  mem : s.mem = t.mem
  fault : s.fault = t.fault ∨ (s.status = .faulted ∧ s.fault = some (.outOfBounds s.mem.length s.mem.length) ∧
    ∃ op, t.fault = some (.unknownOpcode op))

theorem State.OrdersAgree.reply (h : s.OrdersAgree t) (hrun : s.status = .running) : s.runReply = t.runReply := by
  refine State.runReply_eq_iff.mpr ⟨h.status, h.fault.resolve_right fun ⟨hfaulted, _⟩ => ?_, h.ip, h.mem⟩
  simp [hrun] at hfaulted

theorem State.OrdersAgree.step (h : s.OrdersAgree t) (hrun : s.status = .running) (hs : step s = .next s')
    (ht : Machine.step t = .next t') : s'.OrdersAgree t' := by
  have hrun' : t.status = .running := h.status ▸ hrun
  have hcfg := step_keeps_cfg_of_running hrun hs
  have hcfg' := step_keeps_cfg_of_running hrun' ht
  have same : s'.steps = t'.steps → s'.runReply = t'.runReply → s'.OrdersAgree t' := fun hsteps hreply => by
    obtain ⟨hstatus, hfault, hip, hmem⟩ := State.runReply_eq_iff.mp hreply
    exact ⟨hcfg ▸ h.operandsFirst, by rw [hcfg', hcfg, h.cfg], hsteps, hstatus, hip, hmem, .inl hfault⟩
  obtain ⟨f, hu, hw⟩ | ⟨u, w, hu, hw, hcount⟩ := State.stepLimitCheck_congr (by rw [h.cfg]) h.steps
  · rw [step_of_limit hrun hu] at hs
    rw [step_of_limit hrun' hw] at ht
    obtain rfl := Host.Outcome.next.inj hs
    obtain rfl := Host.Outcome.next.inj ht
    exact same h.steps (State.raise_runReply_congr (h.reply hrun))
  have hsteps : s'.steps = t'.steps := by rw [step_steps hrun hu hs, hcount, step_steps hrun' hw ht]
  obtain hfetch | ⟨hf, op, hf'⟩ := State.fetch_decodeOrder h.ip h.mem h.operandsFirst
  · exact same hsteps (step_runReply_congr hrun (by rw [h.cfg]; exact ⟨rfl, rfl⟩) (h.reply hrun) hfetch hu hw hs ht)
  · obtain ⟨-, -, huip, humem⟩ := State.runReply_eq_iff.mp (State.stepLimitCheck_keeps_runReply hu)
    obtain ⟨-, -, hwip, hwmem⟩ := State.runReply_eq_iff.mp (State.stepLimitCheck_keeps_runReply hw)
    rw [step_of_fetch_error hrun hu hf] at hs
    rw [step_of_fetch_error hrun' hw hf'] at ht
    obtain rfl := Host.Outcome.next.inj hs
    obtain rfl := Host.Outcome.next.inj ht
    exact ⟨hcfg ▸ h.operandsFirst, by rw [hcfg', hcfg, h.cfg], hsteps, rfl, by simp [huip, hwip, h.ip],
      by simp [humem, hwmem, h.mem], .inr ⟨rfl, by simp [humem], op, rfl⟩⟩

theorem run_ordersAgree (c : Config) (m : Memory) :
    (run { c with decodeOrder := .operandsFirst } m).OrdersAgree (run { c with decodeOrder := .opcodeFirst } m) := by
  have hstart : State.OrdersAgree ((State.resetWith { c with decodeOrder := .operandsFirst }).startRun m)
      ((State.resetWith { c with decodeOrder := .opcodeFirst }).startRun m) :=
    ⟨rfl, rfl, rfl, rfl, rfl, rfl, .inl rfl⟩
  exact runLoop_lockstep (fun _ _ h => h.status) (fun _ _ _ _ h => h.step) (m.length / 4 + 1) _ _ hstart

theorem run_keeps_length (c : Config) (m : Memory) : (run c m).mem.length = m.length :=
  runLoop_keeps_length _ ((State.resetWith c).startRun m)

/-- Settles O28: the orders fetch differently only where both raise, so the runs stay in step up to the record of that
fault. -/
theorem decodeOrderChangesTheFaultKindOnly : Obligations.DecodeOrderChangesTheFaultKindOnly := by
  unfold Obligations.DecodeOrderChangesTheFaultKindOnly
  intro c m
  have h := run_ordersAgree c m
  refine ⟨h.status, h.ip, h.mem, h.fault.imp_right fun ⟨_, hbounds, hopcode⟩ => ⟨?_, hopcode⟩⟩
  rwa [run_keeps_length] at hbounds

end Sys2Proof.Machine
end

section
/-! PROOF. That every run ends, and where it stands then (40_execution_cycle.md R91, R93, 10_state.md R22, R25). -/

namespace Sys2Proof.Machine

variable {s t : State} {m : Memory}

/-- The three ways a step of a running core can end, register by register: an ADD or MUL with its four cells in the image
has advanced, a 99 has halted, or a fault is taken (R80, R93). -/
theorem coreStep_ends (hrun : s.status = .running) (h : coreStep s = .next t) :
    (t.status = .running ∧ t.fault = s.fault ∧ t.ip = s.ip + 4 ∧ t.ip ≤ t.mem.length) ∨
    (t.status = .halted ∧ t.fault = s.fault ∧ t.ip = s.ip ∧ t.mem = s.mem ∧ t.mem.read t.ip = .ok 99) ∨
    (t.status = .faulted ∧ t.fault.isSome = true ∧ t.ip = s.ip ∧ t.mem = s.mem) := by
  obtain ⟨u, hu, hend⟩ := coreStep_cases h
  obtain ⟨hstatus, hfault, hip, hmem⟩ : u.status = s.status ∧ u.fault = s.fault ∧ u.ip = s.ip ∧ u.mem = s.mem := by
    rcases hu with rfl | rfl <;> simp
  obtain ⟨d, r, -, -, hwindow, rfl⟩ | ⟨h99, rfl⟩ | ⟨f, rfl⟩ := hend
  · have hreach := (coreStep_running_advances h (hstatus.trans hrun)).2
    exact .inl ⟨hstatus.trans hrun, hfault, congrArg (· + 4) hip, (coreStep_keeps_length h).symm ▸ hreach⟩
  · exact .inr (.inl ⟨rfl, hfault, hip, hmem, by rwa [State.halt_mem, State.halt_ip, hmem, hip]⟩)
  · exact .inr (.inr ⟨rfl, rfl, hip, hmem⟩)

/-- Where the core stands at every point of a run (R22, R25, R93, R110). -/
structure State.RunInv (s : State) : Prop where
  started : s.status ≠ .idle
  aligned : s.ip % 4 = 0
  inReach : s.ip ≤ s.mem.length
  faultHeld : s.fault.isSome = true ↔ s.status = .faulted
  haltCell : s.status = .halted → s.mem.read s.ip = .ok 99

theorem State.startRun_runInv (s : State) (m : Memory) : (s.startRun m).RunInv := by
  constructor <;> simp

theorem coreStep_keeps_runInv (h : s.RunInv) (hrun : s.status = .running) (hs : coreStep s = .next t) : t.RunInv := by
  obtain ⟨-, haligned, hreach, hfaultHeld, -⟩ := h
  have hnone : s.fault.isSome = false := by simpa [hrun] using hfaultHeld
  obtain ⟨hstatus, hfault, hip, hin⟩ | ⟨hstatus, hfault, hip, hmem, h99⟩ | ⟨hstatus, hfault, hip, hmem⟩ :=
    coreStep_ends hrun hs
  · exact ⟨by simp [hstatus], by omega, hin, by simp [hstatus, hfault, hnone], by simp [hstatus]⟩
  · exact ⟨by simp [hstatus], by omega, by rwa [hip, hmem], by simp [hstatus, hfault, hnone], fun _ => h99⟩
  · exact ⟨by simp [hstatus], by omega, by rwa [hip, hmem], by simp [hstatus, hfault], by simp [hstatus]⟩

theorem runLoop_keeps_runInv (k : Nat) (h : s.RunInv) : (runLoop k s).RunInv :=
  runLoop_induction (P := State.RunInv) (fun _ _ => coreStep_keeps_runInv) k s h

theorem runOn_runInv (s : State) (m : Memory) : (runOn s m).RunInv :=
  runLoop_keeps_runInv _ (s.startRun_runInv m)

/-- A run ends `Halted` or `Faulted` (R91, R93). -/
theorem runOn_ends (s : State) (m : Memory) : (runOn s m).status = .halted ∨ (runOn s m).status = .faulted := by
  have hstopped := runOn_stops s m
  have hstarted := (runOn_runInv s m).started
  cases hstatus : (runOn s m).status <;> simp_all

/-- Settles O24: `ip` grows by 4 in every attempt that goes on, so the loop's passes end the run, and a stopped core stays
as it is. -/
theorem everyRunEndsWithinItsBound : Obligations.EveryRunEndsWithinItsBound := by
  unfold Obligations.EveryRunEndsWithinItsBound
  intro s m k hk
  refine ⟨?_, runOn_ends s m⟩
  obtain ⟨j, rfl⟩ := Nat.exists_eq_add_of_le hk
  rw [runLoop_add]
  exact runLoop_stopped j (runOn_stops s m)

/-- Settles O26: the run's invariant at its end, `Halted` or `Faulted`. -/
theorem runEndsWhereItsLastStepStood : Obligations.RunEndsWhereItsLastStepStood := by
  unfold Obligations.RunEndsWhereItsLastStepStood
  intro c m
  obtain ⟨-, haligned, hreach, hfaultHeld, hhaltCell⟩ : (run c m).RunInv := runOn_runInv _ m
  rw [run_keeps_length] at hreach
  refine ⟨haligned, hreach, fun hsafe => ⟨hhaltCell hsafe, ?_⟩, fun hfails => ?_⟩
  · simpa [show (run c m).status = .halted from hsafe] using hfaultHeld
  · have hfaulted := (runOn_ends (State.resetWith c) m).resolve_left hfails
    exact ⟨hfaulted, hfaultHeld.mpr hfaulted⟩

end Sys2Proof.Machine
end

section
/-! PROOF. The decoder and the encoder are inverse, also through the numbering of the opcode table's words, and a step runs
what the cells at `ip` decode to (30_encoding.md, 40_execution_cycle.md R82). -/

namespace Sys2Proof.Machine

variable {s u : State} {i : Instr} {cells rest : List Nat}

/-! ### Cells and instructions -/

theorem decode_encode (i : Instr) (rest : List Nat) : decode (encode i ++ rest) = .ok (i, rest) := by
  cases i <;> rfl

/-- An opcode other than HALT's needs its three field cells, and then the decode function answers (R60, R69). -/
theorem decode_eq_ok_of_ne_hlt {op : Nat} {tail : List Nat} (h99 : op ≠ 99) (h : decode (op :: tail) = .ok (i, rest)) :
    ∃ c1 c2 c3, tail = c1 :: c2 :: c3 :: rest ∧ decodeFields op c1 c2 c3 = .ok i := by
  have short : ∀ {e e' : DecodeError},
      (if op = 1 ∨ op = 2 then .error e else .error e' : Except DecodeError (Instr × List Nat)) ≠ .ok (i, rest) := by
    intro e e'
    split <;> simp
  rcases tail with _ | ⟨c1, _ | ⟨c2, _ | ⟨c3, rest'⟩⟩⟩
  case cons.cons.cons =>
    refine ⟨c1, c2, c3, ?_⟩
    cases hi : decodeFields op c1 c2 c3 <;> simp_all [decode]
  all_goals exact absurd (by simpa only [decode, h99, if_false] using h) short

/-- Everything the decoder accepts: the encodings, and whatever follows them (30_encoding.md section 2). -/
theorem decode_eq_ok_iff : decode cells = .ok (i, rest) ↔ cells = encode i ++ rest := by
  refine ⟨fun h => ?_, fun h => h ▸ decode_encode i rest⟩
  rcases cells with _ | ⟨op, tail⟩
  · simp [decode] at h
  by_cases h99 : op = 99
  · subst h99
    obtain ⟨rfl, rfl⟩ : Instr.hlt = i ∧ tail = rest := by simpa [decode] using h
    rfl
  · obtain ⟨c1, c2, c3, rfl, hi⟩ := decode_eq_ok_of_ne_hlt h99 h
    rcases decodeFields_eq_ok.mp hi with ⟨rfl, -⟩ | ⟨rfl, rfl⟩ | ⟨rfl, rfl⟩
    · exact absurd rfl h99
    · rfl
    · rfl

/-- Settles O5: each constructor's cells lead the decoder back to it. -/
theorem decodeInvertsEncode : Obligations.DecodeInvertsEncode := by
  unfold Obligations.DecodeInvertsEncode
  exact decode_encode

/-- Settles O6: the decoder accepts nothing but encodings. -/
theorem decodeAcceptsOnlyEncodings : Obligations.DecodeAcceptsOnlyEncodings := by
  unfold Obligations.DecodeAcceptsOnlyEncodings
  intro cells rest i h
  exact decode_eq_ok_iff.mp h

/-- Settles O4: the words are encodings with their rests, and the two others are computed to their errors. -/
theorem specWordsDecodeToTheirInstructions : Obligations.SpecWordsDecodeToTheirInstructions := by
  unfold Obligations.SpecWordsDecodeToTheirInstructions
  exact ⟨decode_encode (.add 9 10 3) [], decode_encode (.mul 3 11 0) [99], decode_encode .hlt [30, 40, 50],
    decode_encode .hlt [], rfl, rfl⟩

/-! ### Table words (log 10) -/

theorem Instr.wellFormed_iff {W : Nat} : i.wellFormed W = true ↔ ∀ c ∈ encode i, c < 2 ^ W := by
  cases i with
  | add a b d => exact Laws.EncodedCellsFit.add a b d W
  | mul a b d => exact Laws.EncodedCellsFit.mul a b d W
  | hlt => exact Laws.EncodedCellsFit.hlt W

theorem encode_length_le (i : Instr) : (encode i).length ≤ 4 := by
  cases i <;> simp [encode]

theorem unpackCells_zero (k : Nat) : unpackCells k 0 = List.replicate k 0 := by
  induction k with
  | zero => rfl
  | succ k ih => simp [unpackCells, ih, List.replicate_succ]

/-- Cells that fit come back from the number they are packed in, and zeros after them. -/
theorem unpackCells_packCells (k : Nat) (hfit : ∀ c ∈ cells, c < 2 ^ tableCellBits) :
    unpackCells (cells.length + k) (packCells cells) = cells ++ List.replicate k 0 := by
  induction cells with
  | nil => simp [packCells, unpackCells_zero]
  | cons c cs ih =>
    obtain ⟨hc, hcs⟩ := List.forall_mem_cons.mp hfit
    have hlow : (c + 2 ^ tableCellBits * packCells cs) % 2 ^ tableCellBits = c := by
      rw [Nat.add_mul_mod_self_left, Nat.mod_eq_of_lt hc]
    have hhigh : (c + 2 ^ tableCellBits * packCells cs) / 2 ^ tableCellBits = packCells cs := by
      rw [Nat.add_mul_div_left _ _ (Nat.two_pow_pos _), Nat.div_eq_of_lt hc, Nat.zero_add]
    rw [List.length_cons, Nat.add_right_comm, packCells, unpackCells, hlow, hhigh, ih hcs, List.cons_append]

theorem packCells_lt (hfit : ∀ c ∈ cells, c < 2 ^ tableCellBits) :
    packCells cells < 2 ^ (cells.length * tableCellBits) := by
  induction cells with
  | nil => simp [packCells]
  | cons c cs ih =>
    obtain ⟨hc, hcs⟩ := List.forall_mem_cons.mp hfit
    calc c + 2 ^ tableCellBits * packCells cs
      _ < 2 ^ tableCellBits * (packCells cs + 1) := by rw [Nat.mul_add_one]; omega
      _ ≤ 2 ^ tableCellBits * 2 ^ (cs.length * tableCellBits) := Nat.mul_le_mul_left _ (ih hcs)
      _ = 2 ^ ((cs.length + 1) * tableCellBits) := by rw [← Nat.pow_add, Nat.add_one_mul, Nat.add_comm]

/-- The table word of an instruction holds its encoding, filled up with zeros to four cells (log 10). -/
theorem tableCells_encodeTableWord (hi : i.wellFormed tableCellBits = true) :
    tableCells (4 * tableCellBits) (encodeTableWord i) = encode i ++ List.replicate (4 - (encode i).length) 0 := by
  have hfit := Instr.wellFormed_iff.mp hi
  have hlength := encode_length_le i
  have hword : packCells (encode i) < 2 ^ (4 * tableCellBits) :=
    (packCells_lt hfit).trans_le (Nat.pow_le_pow_right (by decide) (Nat.mul_le_mul_right _ hlength))
  rw [tableCells, encodeTableWord, Nat.mod_eq_of_lt hword, ← unpackCells_packCells _ hfit, Nat.add_sub_cancel' hlength]

/-- Settles O7: the cells of the table word are the encoding and zeros after it, which the decoder leaves. -/
theorem tableWordDecodesBack : Obligations.TableWordDecodesBack := by
  unfold Obligations.TableWordDecodesBack
  intro i hi
  rw [decodeTableWord, tableCells_encodeTableWord hi, decode_encode]

/-! ### A step runs what the cells at `ip` decode to -/

/-- The cells from `ip` on are what the fetch reads (R82). -/
theorem State.read_of_drop {v : Nat} (hdrop : s.mem.cells.drop s.ip = cells) (k : Nat) :
    s.mem.read (s.ip + k) = .ok v ↔ cells[k]? = some v := by
  rw [Memory.read_eq_ok, ← hdrop, List.getElem?_drop]

theorem State.fetch_of_decode (h : decode (s.mem.cells.drop s.ip) = .ok (i, rest)) : s.fetch = .ok i := by
  have hread := fun {v} => State.read_of_drop (v := v) (decode_eq_ok_iff.mp h)
  refine State.fetch_eq_ok.mpr ?_
  cases i with
  | add a b d => exact .inr ⟨a, b, d, (hread 1).mpr rfl, (hread 2).mpr rfl, (hread 3).mpr rfl, .inl ⟨(hread 0).mpr rfl, rfl⟩⟩
  | mul a b d => exact .inr ⟨a, b, d, (hread 1).mpr rfl, (hread 2).mpr rfl, (hread 3).mpr rfl, .inr ⟨(hread 0).mpr rfl, rfl⟩⟩
  | hlt => exact .inl ⟨rfl, (hread 0).mpr rfl⟩

/-- Settles O15: the fetch reads from the cells what the decoder does. -/
theorem stepRunsTheDecodedInstruction : Obligations.StepRunsTheDecodedInstruction := by
  unfold Obligations.StepRunsTheDecodedInstruction
  intro s u i rest hrun hu hdecode
  exact step_of_fetch_ok hrun hu (State.fetch_of_decode hdecode)

/-! ### `withFetchWord` (log 9) -/

/-- From `pos` on the overlaid image holds the cells laid over it. -/
theorem Memory.drop_overlay (m : Memory) (pos : Nat) (cs : List Nat) :
    (m.overlay pos cs).cells.drop pos = cs ++ m.cells.drop (pos + cs.length) := by
  have hbefore : (m.cells.take pos ++ List.replicate (pos - m.length) 0).length = pos := by
    simp only [List.length_append, List.length_take, List.length_replicate, Memory.length]
    omega
  rw [Memory.overlay, List.append_assoc]
  exact List.drop_left' hbefore

theorem wrap_of_fits {W : Nat} (hfit : ∀ c ∈ cells, c < 2 ^ W) : cells.map (Word.wrap W) = cells :=
  (List.map_congr_left fun c hc => Nat.mod_eq_of_lt (hfit c hc)).trans (List.map_id cells)

/-- Settles O22: the cells from `ip` on are the encoding, which 64-bit cells hold unchanged, so the fetch reads the
instruction. -/
theorem fetchWordIsRunByTheNextStep : Obligations.FetchWordIsRunByTheNextStep := by
  unfold Obligations.FetchWordIsRunByTheNextStep
  intro s u i hwidth hi hu
  have hfit : ∀ c ∈ encode i ++ List.replicate (4 - (encode i).length) 0, c < 2 ^ tableCellBits := by
    intro c hc
    rcases List.mem_append.mp hc with hc | hc
    · exact Instr.wellFormed_iff.mp hi c hc
    · rw [List.eq_of_mem_replicate hc]
      exact Nat.two_pow_pos _
  have hdrop : ∃ rest, (s.withFetchWord (4 * tableCellBits) (encodeTableWord i)).mem.cells.drop s.ip =
      encode i ++ rest := by
    rw [State.withFetchWord, tableCells_encodeTableWord hi, State.placeWindow, hwidth, wrap_of_fits hfit,
      Memory.drop_overlay, List.append_assoc]
    exact ⟨_, rfl⟩
  obtain ⟨rest, hrest⟩ := hdrop
  exact step_of_fetch_ok rfl hu (State.fetch_of_decode (decode_eq_ok_iff.mpr hrest))

end Sys2Proof.Machine
end

section
/-! PROOF. What ADD and MUL write, where they trap, and the 99 they can write over the next opcode (41_arithmetic.md,
20_memory.md section 3). -/

namespace Sys2Proof.Machine

variable {s t u : State} {i : Instr} {a b d x y v r op : Nat} {g : Nat → Nat → Nat} {f : FaultRecord}

/-! ### The reduction -/

theorem reduce_of_fits {c : Config} (hfit : v < 2 ^ c.width) : reduce c op x y v = .ok v :=
  reduce_eq_ok.mpr (.inl ⟨hfit, rfl⟩)

theorem reduce_of_wrap {c : Config} (hwrap : c.overflowMode = .wrap) :
    reduce c op x y v = .ok (v % 2 ^ c.width) := by
  rcases Nat.lt_or_ge v (2 ^ c.width) with hfit | hover
  · exact reduce_eq_ok.mpr (.inl ⟨hfit, Nat.mod_eq_of_lt hfit⟩)
  · exact reduce_eq_ok.mpr (.inr ⟨hover, hwrap, rfl⟩)

/-! ### Completing and trapping -/

/-- ADD and MUL with everything readable, the destination in the image and a reduced result (R102). -/
theorem settle_arith_completes (hx : s.mem.read a = .ok x) (hy : s.mem.read b = .ok y) (hd : d < s.mem.length)
    (hr : reduce s.cfg op x y (g x y) = .ok r) :
    s.settle (arith op g a b d s) = .next (s.retire { cells := s.mem.cells.set d r }) := by
  rw [arith_eq_ok.mpr ⟨x, y, r, hx, hy, hd, hr, rfl⟩, State.settle_ok]

theorem settle_arith_traps (hf : arith op g a b d s = .error f) :
    s.settle (arith op g a b d s) = .next (s.raise f) := by
  rw [hf, State.settle_error]

/-- Settles O9: the sum is reduced to itself where it fits, and under `Wrap` to its residue. -/
theorem addWritesTheSumAndAdvances : Obligations.AddWritesTheSumAndAdvances := by
  unfold Obligations.AddWritesTheSumAndAdvances
  intro s a b d x y hx hy hd
  constructor
  · intro hfit
    exact settle_arith_completes hx hy hd (reduce_of_fits hfit)
  · intro hwrap
    exact settle_arith_completes hx hy hd (reduce_of_wrap hwrap)

/-- Settles O10: as for ADD, with the product. -/
theorem mulWritesTheProductAndAdvances : Obligations.MulWritesTheProductAndAdvances := by
  unfold Obligations.MulWritesTheProductAndAdvances
  intro s a b d x y hx hy hd
  constructor
  · intro hfit
    exact settle_arith_completes hx hy hd (reduce_of_fits hfit)
  · intro hwrap
    exact settle_arith_completes hx hy hd (reduce_of_wrap hwrap)

/-- Settles O12: each clause is one of the raises of `Execute_Arith`, in the order of R102. -/
theorem arithmeticTrapsInOrder : Obligations.ArithmeticTrapsInOrder := by
  unfold Obligations.ArithmeticTrapsInOrder
  intro s i a b d op g hi
  have hexec : exec i s = s.settle (arith op g a b d s) := by
    rcases hi with ⟨rfl, rfl, rfl⟩ | ⟨rfl, rfl, rfl⟩ <;> rfl
  rw [hexec]
  refine ⟨fun ha => ?_, fun ha hb => ?_, fun ha hb hd => ?_, fun x y hx hy hd hover hmode => ?_⟩
  · exact settle_arith_traps (arith_eq_error.mpr (.inl ⟨ha, rfl⟩))
  · exact settle_arith_traps (arith_eq_error.mpr (.inr (.inl ⟨ha, hb, rfl⟩)))
  · exact settle_arith_traps (arith_eq_error.mpr (.inr (.inr (.inl ⟨ha, hb, hd, rfl⟩))))
  · exact settle_arith_traps (arith_eq_error.mpr (.inr (.inr (.inr
      ⟨x, y, hx, hy, hd, reduce_eq_error.mpr ⟨hover, hmode, rfl⟩⟩))))

/-- Settles O14: of the two ways ADD and MUL can end, the completed one leaves the state running and the other is the
raise. -/
theorem arithmeticTrapLeavesMemoryAndIp : Obligations.ArithmeticTrapLeavesMemoryAndIp := by
  unfold Obligations.ArithmeticTrapLeavesMemoryAndIp
  intro s t i a b d hi hrun hexec hstopped
  obtain ⟨r, m, -, rfl⟩ | ⟨f, rfl⟩ := exec_arith_cases hi hexec
  · exact absurd hrun hstopped
  · exact ⟨rfl, rfl, fun _ => rfl, rfl⟩

/-! ### A written 99 -/

/-- Settles O21: the first step retires with 99 in the cell its `ip` then points to, which the next step fetches as
HALT. -/
theorem writtenHaltStopsTheNextStep : Obligations.WrittenHaltStopsTheNextStep := by
  unfold Obligations.WrittenHaltStopsTheNextStep
  intro s u op a b x y exact hrun hu hop h1 h2 h3 hd hx hy hresult h99
  obtain ⟨hustatus, -, huip, humem⟩ := State.runReply_eq_iff.mp (State.stepLimitCheck_keeps_runReply hu)
  have hreduce : reduce u.cfg op x y exact = .ok 99 := by
    rw [State.stepLimitCheck_keeps_cfg hu]
    rcases h99 with ⟨rfl, hfit⟩ | ⟨hwrap, hmod⟩
    · exact reduce_of_fits hfit
    · rw [reduce_of_wrap hwrap, hmod]
  rw [← humem] at hx hy
  have hdu : s.ip + 4 < u.mem.length := by rwa [humem]
  have hstep : step s = .next (u.retire { cells := u.mem.cells.set (s.ip + 4) 99 }) := by
    rcases hresult with ⟨rfl, rfl⟩ | ⟨rfl, rfl⟩
    · rw [step_of_fetch_ok hrun hu (State.fetch_eq_ok.mpr (.inr ⟨a, b, _, h1, h2, h3, .inl ⟨hop, rfl⟩⟩))]
      exact settle_arith_completes hx hy hdu hreduce
    · rw [step_of_fetch_ok hrun hu (State.fetch_eq_ok.mpr (.inr ⟨a, b, _, h1, h2, h3, .inr ⟨hop, rfl⟩⟩))]
      exact settle_arith_completes hx hy hdu hreduce
  have hread := Memory.read_write_same (Memory.write_of_lt (v := 99) hdu)
  refine ⟨_, hstep, congrArg (· + 4) huip, hread, fun v hv => ?_⟩
  refine step_of_fetch_ok (s := u.retire _) (hustatus.trans hrun) hv (State.fetch_hlt ?_)
  rwa [State.retire_ip, State.retire_mem, huip]

end Sys2Proof.Machine
end

section
/-! PROOF. A step reports the first raise of the flat list of R89 (40_execution_cycle.md section 1). -/

namespace Sys2Proof.Machine

variable {s t u : State} {i : Instr} {a b d v op : Nat} {g : Nat → Nat → Nat} {f : FaultRecord}

theorem State.cell_of_read (h : s.mem.read a = .ok v) : s.cell a = v := by
  simp [State.cell, Memory.read_eq_ok.mp h]

/-- The entries of the flat list that stand behind the fetch of an ADD or MUL: the two sources, the destination, the
overflow of the exact result (R89). -/
def State.arithRaise (s : State) (op a b d exact : Nat) : Option FaultRecord :=
  if s.mem.length ≤ a then some (.outOfBounds a s.mem.length)
  else if s.mem.length ≤ b then some (.outOfBounds b s.mem.length)
  else if s.mem.length ≤ d then some (.outOfBounds d s.mem.length)
  else if s.cfg.overflowMode = .fault ∧ 2 ^ s.cfg.width ≤ exact then some (.arithmeticOverflow op (s.cell a) (s.cell b))
  else none

/-! ### The list, stage by stage -/

theorem State.firstRaise_of_limit (hf : s.stepLimitCheck = .error f) : s.firstRaise = some f := by
  obtain ⟨n, hn, hle, rfl⟩ := State.stepLimitCheck_eq_error.mp hf
  simp [State.firstRaise, hn, hle]

/-- Past the step-limit check the list's first entry does not hold (R88). -/
theorem State.limit_not_reached (hu : s.stepLimitCheck = .ok u) :
    s.cfg.stepLimit.any (fun n => decide (n ≤ s.steps)) = false := by
  rcases State.stepLimitCheck_eq_ok.mp hu with ⟨hn, -⟩ | ⟨n, hn, hlt, -⟩
  · simp [hn]
  · simpa [hn] using hlt

theorem State.firstRaise_of_fetch_error (hu : s.stepLimitCheck = .ok u) (hf : s.fetch = .error f) :
    s.firstRaise = some f := by
  have hlimit := State.limit_not_reached hu
  obtain ⟨hip, rfl⟩ | ⟨op, hop, h99, ⟨horder, h1, h2, rfl⟩ | ⟨hlate, ⟨hend, rfl⟩ | ⟨hin, h1, h2, rfl⟩⟩⟩ :=
    State.fetch_eq_error.mp hf
  · simp [State.firstRaise, hlimit, hip]
  · have hip := Nat.not_le.mpr (Memory.read_lt hop)
    simp [State.firstRaise, hlimit, State.cell_of_read hop, hip, h99, horder, h1, h2]
  · have hip := Memory.read_lt hop
    have hmissing : s.mem.length = s.ip + 1 ∨ s.mem.length = s.ip + 2 ∨ s.mem.length = s.ip + 3 := by omega
    simp only [State.firstRaise, hlimit, State.cell_of_read hop, Nat.not_le.mpr hip, h99, hlate, if_false,
      Bool.false_eq_true]
    rcases hmissing with hL | hL | hL <;> simp [hL]
  · have hip := Memory.read_lt hop
    simp only [State.firstRaise, hlimit, State.cell_of_read hop, Nat.not_le.mpr hip, h99, hlate, if_false,
      Bool.false_eq_true]
    rw [if_neg (by omega), if_neg (by omega), if_neg (by omega), if_pos ⟨h1, h2⟩]

theorem State.firstRaise_of_hlt (hu : s.stepLimitCheck = .ok u) (h99 : s.mem.read s.ip = .ok 99) :
    s.firstRaise = none := by
  have hip := Nat.not_le.mpr (Memory.read_lt h99)
  simp [State.firstRaise, State.limit_not_reached hu, State.cell_of_read h99, hip]

theorem State.firstRaise_of_arith (hu : s.stepLimitCheck = .ok u) (hop : s.mem.read s.ip = .ok op)
    (h1 : s.mem.read (s.ip + 1) = .ok a) (h2 : s.mem.read (s.ip + 2) = .ok b) (h3 : s.mem.read (s.ip + 3) = .ok d)
    (hlegal : op = 1 ∨ op = 2) :
    s.firstRaise = s.arithRaise op a b d (if op = 1 then s.cell a + s.cell b else s.cell a * s.cell b) := by
  have h99 : op ≠ 99 := by omega
  have hnot : ¬ (op ≠ 1 ∧ op ≠ 2) := by omega
  simp only [State.firstRaise, State.limit_not_reached hu, State.cell_of_read hop, State.cell_of_read h1,
    State.cell_of_read h2, State.cell_of_read h3, Nat.not_le.mpr (Memory.read_lt hop), Nat.not_le.mpr (Memory.read_lt h1),
    Nat.not_le.mpr (Memory.read_lt h2), Nat.not_le.mpr (Memory.read_lt h3), h99, hnot, and_false, if_false,
    Bool.false_eq_true]
  rfl

/-! ### ADD and MUL take the first raise of their entries -/

theorem settle_arith_raise (s : State) (op a b d : Nat) (g : Nat → Nat → Nat) :
    (∃ f, s.arithRaise op a b d (g (s.cell a) (s.cell b)) = some f ∧
      s.settle (arith op g a b d s) = .next (s.raise f)) ∨
    (s.arithRaise op a b d (g (s.cell a) (s.cell b)) = none ∧
      ∃ m, s.settle (arith op g a b d s) = .next (s.retire m)) := by
  have into : ∀ {k}, k < s.mem.length → ¬ s.mem.length ≤ k := fun h => Nat.not_le.mpr h
  cases hr : arith op g a b d s with
  | ok t =>
    obtain ⟨x, y, r, hx, hy, hd, hred, rfl⟩ := arith_eq_ok.mp hr
    refine .inr ⟨?_, _, rfl⟩
    have hno : ¬ (s.cfg.overflowMode = .fault ∧ 2 ^ s.cfg.width ≤ g x y) := by
      rcases reduce_eq_ok.mp hred with ⟨hfit, -⟩ | ⟨-, hwrap, -⟩
      · omega
      · simp [hwrap]
    simp [State.arithRaise, into (Memory.read_lt hx), into (Memory.read_lt hy), into hd, State.cell_of_read hx,
      State.cell_of_read hy, hno]
  | error f =>
    refine .inl ⟨f, ?_, rfl⟩
    obtain ⟨ha, rfl⟩ | ⟨ha, hb, rfl⟩ | ⟨ha, hb, hd, rfl⟩ | ⟨x, y, hx, hy, hd, hred⟩ := arith_eq_error.mp hr
    · simp [State.arithRaise, ha]
    · simp [State.arithRaise, into ha, hb]
    · simp [State.arithRaise, into ha, into hb, hd]
    · obtain ⟨hover, hmode, rfl⟩ := reduce_eq_error.mp hred
      simp [State.arithRaise, into (Memory.read_lt hx), into (Memory.read_lt hy), into hd, State.cell_of_read hx,
        State.cell_of_read hy, hover, hmode]

/-! ### The step -/

/-- A step takes the first raise of the list, in the state reached so far, or ends without a fault of its own. -/
theorem step_firstRaise (hrun : s.status = .running) :
    (∃ f, ∃ u : State, s.firstRaise = some f ∧ step s = .next (u.raise f)) ∨
    (s.firstRaise = none ∧ ∃ t, step s = .next t ∧ t.status ≠ .faulted ∧ t.fault = s.fault) := by
  cases hu : s.stepLimitCheck with
  | error f => exact .inl ⟨f, s, State.firstRaise_of_limit hu, step_of_limit hrun hu⟩
  | ok u =>
  obtain ⟨hstatus, hfault, -, -⟩ := State.runReply_eq_iff.mp (State.stepLimitCheck_keeps_runReply hu)
  cases hf : s.fetch with
  | error f => exact .inl ⟨f, u, State.firstRaise_of_fetch_error hu hf, step_of_fetch_error hrun hu hf⟩
  | ok i =>
  have hstep := step_of_fetch_ok hrun hu hf
  have of_arith : ∀ {op a b d g}, s.firstRaise = s.arithRaise op a b d (g (s.cell a) (s.cell b)) →
      step s = u.settle (arith op g a b d u) →
      (∃ f, ∃ u : State, s.firstRaise = some f ∧ step s = .next (u.raise f)) ∨
      (s.firstRaise = none ∧ ∃ t, step s = .next t ∧ t.status ≠ .faulted ∧ t.fault = s.fault) := by
    intro op a b d g hlist hsettle
    have hsame : s.arithRaise op a b d (g (s.cell a) (s.cell b)) = u.arithRaise op a b d (g (u.cell a) (u.cell b)) := by
      rcases State.stepLimitCheck_writes hu with rfl | rfl <;> rfl
    rw [hlist, hsame, hsettle]
    obtain ⟨f, hraise, hnext⟩ | ⟨hnone, m, hnext⟩ := settle_arith_raise u op a b d g
    · exact .inl ⟨f, u, hraise, hnext⟩
    · exact .inr ⟨hnone, _, hnext, by simp [hstatus, hrun], hfault⟩
  obtain ⟨rfl, h99⟩ | ⟨a, b, d, h1, h2, h3, ⟨hop, rfl⟩ | ⟨hop, rfl⟩⟩ := State.fetch_eq_ok.mp hf
  · exact .inr ⟨State.firstRaise_of_hlt hu h99, u.halt, hstep, by simp, hfault⟩
  · exact of_arith (g := fun x y => x + y) (State.firstRaise_of_arith hu hop h1 h2 h3 (.inl rfl)) hstep
  · exact of_arith (g := fun x y => x * y) (State.firstRaise_of_arith hu hop h1 h2 h3 (.inr rfl)) hstep

/-- Settles O18: the stages of the step raise in the order of the list. -/
theorem stepReportsTheFirstRaise : Obligations.StepReportsTheFirstRaise := by
  unfold Obligations.StepReportsTheFirstRaise
  intro s hrun
  obtain ⟨f, u, hraise, hstep⟩ | ⟨hnone, hends⟩ := step_firstRaise hrun
  · rw [hraise]
    refine ⟨fun f' hf' => ?_, nofun⟩
    obtain rfl := Option.some.inj hf'
    exact ⟨_, hstep, rfl, rfl⟩
  · rw [hnone]
    exact ⟨nofun, fun _ => hends⟩

end Sys2Proof.Machine
end

section
/-! PROOF. Tokens: their whitespace, which of them are valid, and the first invalid one of a line (44_loader.md R123 to
R129). -/

namespace Sys2Proof.Machine

variable {c : Config} {tok left right digits line : Text} {x : Char} {v : Nat} {f : FaultRecord}

/-! ### Whitespace -/

theorem isSpace_iff : isSpace x = true ↔ (9 ≤ x.toNat ∧ x.toNat ≤ 13) ∨ x.toNat = 32 := by
  simp [isSpace]

theorem trim_eq_rdropWhile (t : Text) : trim t = (t.dropWhile isSpace).rdropWhile isSpace := rfl

theorem trim_append_left (h : ∀ x ∈ left, isSpace x = true) : trim (left ++ tok) = trim tok := by
  rw [trim, List.dropWhile_append_of_pos h, trim]

theorem trim_append_right (h : ∀ x ∈ right, isSpace x = true) : trim (tok ++ right) = trim tok := by
  have hreverse : ∀ x ∈ right.reverse, isSpace x = true := fun x hx => h x (List.mem_reverse.mp hx)
  rw [trim, trim, List.dropWhile_append]
  split
  · next hempty => rw [List.isEmpty_iff.mp hempty, List.dropWhile_eq_nil_iff.mpr h]
  · next => rw [List.reverse_append, List.dropWhile_append_of_pos hreverse]

/-- A token with no whitespace at either end is its own trimmed form. -/
theorem trim_eq_self (h : ∀ x, tok.head? = some x ∨ tok.getLast? = some x → ¬ isSpace x = true) : trim tok = tok := by
  have hfront : tok.dropWhile isSpace = tok :=
    List.dropWhile_eq_self_iff.mpr fun hlen => h _ (.inl (by simp [List.head?_eq_getElem?, hlen]))
  rw [trim_eq_rdropWhile, hfront]
  exact List.rdropWhile_eq_self_iff.mpr fun hne => h _ (.inr (List.getLast?_eq_some_getLast hne))

/-- A token's value and its error depend on its trimmed form alone (R124, R128). -/
theorem parseToken_congr {tok' : Text} (h : trim tok = trim tok') : parseToken c tok = parseToken c tok' := by
  simp only [parseToken, h]

/-- Settles O43: trimming drops a run of whitespace at either end, and stops at the first other character. -/
theorem whitespaceAroundATokenIsIgnored : Obligations.WhitespaceAroundATokenIsIgnored := by
  unfold Obligations.WhitespaceAroundATokenIsIgnored
  intro c left tok right hspace
  simp only [← isSpace_iff] at hspace ⊢
  have htrim : trim (left ++ tok ++ right) = trim tok := by
    rw [trim_append_right fun x hx => hspace x (List.mem_append_right _ hx),
      trim_append_left fun x hx => hspace x (List.mem_append_left _ hx)]
  exact ⟨parseToken_congr htrim, fun hends => htrim.trans (trim_eq_self hends)⟩

/-! ### Valid tokens -/

theorem isDigit_iff : isDigit x = true ↔ 48 ≤ x.toNat ∧ x.toNat ≤ 57 := by
  simp [isDigit]

theorem isPlus_iff : isPlus x = true ↔ x = '+' := by
  rw [isPlus, beq_iff_eq, ← Char.toNat_inj]
  rfl

/-- Everything a token with a value is (R124, R125). -/
theorem parseToken_eq_ok_iff :
    parseToken c tok = .ok v ↔
      dropPlus c (trim tok) ≠ [] ∧ (∀ x ∈ dropPlus c (trim tok), isDigit x = true) ∧
        v = decimalValue (dropPlus c (trim tok)) ∧ v < 2 ^ c.width := by
  constructor
  · intro h
    obtain ⟨hv, hne, hdigits, hfit⟩ := parseToken_ok h
    exact ⟨hne, List.all_eq_true.mp hdigits, hv, hfit⟩
  · rintro ⟨hne, hdigits, rfl, hfit⟩
    simp [parseToken, hne, List.all_eq_true.mpr hdigits, hfit]

/-- The digits of a trimmed token are the token, or what follows a `+` that the loader accepts (R124, R129). -/
theorem dropPlus_eq_digits_iff (hdigits : ∀ x ∈ digits, isDigit x = true) (hne : digits ≠ []) :
    dropPlus c tok = digits ↔ tok = digits ∨ (c.loaderAcceptsPlus = true ∧ tok = '+' :: digits) := by
  obtain ⟨d, ds, rfl⟩ := List.exists_cons_of_ne_nil hne
  cases tok with
  | nil => simp [dropPlus]
  | cons x xs =>
    by_cases hplus : c.loaderAcceptsPlus = true ∧ x = '+'
    · obtain ⟨haccepts, rfl⟩ := hplus
      have hfirst : '+' ≠ d := by
        rintro rfl
        exact absurd (hdigits '+' List.mem_cons_self) (by decide)
      simp [dropPlus, haccepts, isPlus_iff.mpr, hfirst]
    · have hkeep : dropPlus c (x :: xs) = x :: xs := by simp_all [dropPlus, isPlus_iff]
      rw [hkeep]
      refine ⟨.inl, fun h => h.resolve_right fun ⟨haccepts, heq⟩ => hplus ⟨haccepts, (List.cons.inj heq).1⟩⟩

theorem decimalFrom_eq_foldl (t : Text) (acc : Nat) :
    decimalFrom t acc = t.foldl (fun acc x => 10 * acc + (x.toNat - 48)) acc := by
  induction t generalizing acc with
  | nil => rfl
  | cons x xs ih => exact ih _

/-- Settles O42: a token is valid by its digits, which are the trimmed token with an accepted `+` dropped, and their value
is the fold over the decimal digits. -/
theorem validTokensAreDecimalNumerals : Obligations.ValidTokensAreDecimalNumerals := by
  unfold Obligations.ValidTokensAreDecimalNumerals
  intro c tok v
  simp only [← isDigit_iff, ← decimalFrom_eq_foldl]
  rw [parseToken_eq_ok_iff]
  constructor
  · rintro ⟨hne, hdigits, hv, hfit⟩
    exact ⟨_, hne, hdigits, (dropPlus_eq_digits_iff hdigits hne).mp rfl, hv, hfit⟩
  · rintro ⟨digits, hne, hdigits, htoken, hv, hfit⟩
    rw [(dropPlus_eq_digits_iff hdigits hne).mpr htoken]
    exact ⟨hne, hdigits, hv, hfit⟩

/-! ### The tokens of a line -/

theorem splitCommas_cons_comma (hx : isComma x = true) : splitCommas (x :: line) = [] :: splitCommas line := by
  simp [splitCommas, hx]

/-- A character that is no comma belongs to the first token (R123). -/
theorem splitCommas_cons_other {t : Text} {ts : List Text} (hx : isComma x = false) (h : splitCommas line = t :: ts) :
    splitCommas (x :: line) = (x :: t) :: ts := by
  simp [splitCommas, hx, h]

theorem splitCommas_length (line : Text) : (splitCommas line).length = line.countP isComma + 1 := by
  induction line with
  | nil => rfl
  | cons x xs ih =>
    cases hx : isComma x with
    | true => rw [splitCommas_cons_comma hx, List.length_cons, ih, List.countP_cons_of_pos hx]
    | false =>
      obtain ⟨t, ts, hsplit⟩ := List.exists_cons_of_ne_nil (splitCommas_ne_nil xs)
      rw [splitCommas_cons_other hx hsplit, List.countP_cons_of_neg (by simp [hx]), ← ih, hsplit]
      rfl

/-- Settles O40: every comma ends a token and begins the next, and there is one cell for each token. -/
theorem loadedLengthIsCommasPlusOne : Obligations.LoadedLengthIsCommasPlusOne := by
  unfold Obligations.LoadedLengthIsCommasPlusOne
  intro c text m hload
  refine ⟨?_, load_makes_image hload⟩
  rw [Memory.length, ← (load_eq_ok_iff_map.mp hload).2, List.length_map, splitCommas_length]

/-- The tokens fail together exactly at the first that fails alone (R128). -/
theorem parseTokens_eq_error {toks : List Text} :
    parseTokens c toks = .error f ↔
      ∃ before tok after, toks = before ++ tok :: after ∧ (∀ t ∈ before, ∃ v, parseToken c t = .ok v) ∧
        parseToken c tok = .error f := by
  induction toks with
  | nil => simp [parseTokens]
  | cons t ts ih =>
    cases ht : parseToken c t with
    | error e =>
      simp only [parseTokens, ht, Except.error.injEq]
      constructor
      · rintro rfl
        exact ⟨[], t, ts, rfl, nofun, ht⟩
      · rintro ⟨_ | ⟨b, before⟩, tok, after, hsplit, hbefore, htok⟩
        · obtain ⟨rfl, -⟩ := List.cons.inj hsplit
          simpa [ht] using htok
        · obtain ⟨rfl, -⟩ := List.cons.inj hsplit
          obtain ⟨v, hv⟩ := hbefore t List.mem_cons_self
          simp [ht] at hv
    | ok v =>
      have hrest : parseTokens c (t :: ts) = .error f ↔ parseTokens c ts = .error f := by
        cases hts : parseTokens c ts <;> simp [parseTokens, ht, hts]
      rw [hrest, ih]
      constructor
      · rintro ⟨before, tok, after, rfl, hbefore, htok⟩
        exact ⟨t :: before, tok, after, rfl, List.forall_mem_cons.mpr ⟨⟨v, ht⟩, hbefore⟩, htok⟩
      · rintro ⟨_ | ⟨b, before⟩, tok, after, hsplit, hbefore, htok⟩
        · obtain ⟨rfl, -⟩ := List.cons.inj hsplit
          simp [ht] at htok
        · obtain ⟨-, rfl⟩ := List.cons.inj hsplit
          exact ⟨before, tok, after, rfl, (List.forall_mem_cons.mp hbefore).2, htok⟩

/-- Settles O41: a load fails with the first token that fails, and a token's only error names its trimmed form. -/
theorem loadReportsTheFirstInvalidToken : Obligations.LoadReportsTheFirstInvalidToken := by
  unfold Obligations.LoadReportsTheFirstInvalidToken
  intro c text f
  rw [load_eq_error, parseTokens_eq_error]
  constructor
  · rintro ⟨before, tok, after, hsplit, hbefore, htok⟩
    exact ⟨before, tok, after, hsplit, hbefore, htok, parseToken_error htok⟩
  · rintro ⟨before, tok, after, hsplit, hbefore, htok, -⟩
    exact ⟨before, tok, after, hsplit, hbefore, htok⟩

end Sys2Proof.Machine
end

section
/-! PROOF. The text of cells loads back to them, and a program's text to cells that decode to the program
(30_encoding.md R71, R72, 44_loader.md R122 to R127). -/

namespace Sys2Proof.Machine

variable {c : Config} {text tok line : Text} {x : Char} {v n fuel : Nat} {cells : List Nat}

/-! ### Numerals -/

theorem digitChar_toNat (h : n < 10) : (digitChar n).toNat = 48 + n := by
  interval_cases n <;> rfl

theorem digitChar_isDigit (h : n < 10) : isDigit (digitChar n) = true := by
  rw [isDigit_iff, digitChar_toNat h]
  omega

theorem digitValue_digitChar (h : n < 10) : digitValue (digitChar n) = n := by
  rw [digitValue, digitChar_toNat h, Nat.add_sub_cancel_left]

theorem numeralFuel_isDigit (fuel n : Nat) (acc : Text) (hacc : ∀ x ∈ acc, isDigit x = true) :
    ∀ x ∈ numeralFuel fuel n acc, isDigit x = true := by
  induction fuel generalizing n acc with
  | zero => exact hacc
  | succ fuel ih =>
    unfold numeralFuel
    split
    · next h => exact List.forall_mem_cons.mpr ⟨digitChar_isDigit h, hacc⟩
    · next => exact ih _ _ (List.forall_mem_cons.mpr ⟨digitChar_isDigit (Nat.mod_lt n (by decide)), hacc⟩)

/-- With fuel enough the numeral written before `acc` is read as its value, and `acc` after it. -/
theorem decimalFrom_numeralFuel (acc : Text) (hfuel : n < fuel) :
    decimalFrom (numeralFuel fuel n acc) 0 = decimalFrom acc n := by
  induction fuel generalizing n acc with
  | zero => omega
  | succ fuel ih =>
    unfold numeralFuel
    split
    · next h => rw [decimalFrom, digitValue_digitChar h, Nat.mul_zero, Nat.zero_add]
    · next h =>
      rw [ih _ (by omega), decimalFrom, digitValue_digitChar (Nat.mod_lt n (by decide)), Nat.div_add_mod]

theorem numeralFuel_ne_nil (fuel n : Nat) (acc : Text) (h : acc ≠ [] ∨ 0 < fuel) : numeralFuel fuel n acc ≠ [] := by
  induction fuel generalizing n acc with
  | zero => exact h.resolve_right (Nat.lt_irrefl 0)
  | succ fuel ih =>
    unfold numeralFuel
    split
    · exact List.cons_ne_nil _ _
    · exact ih _ _ (.inl (List.cons_ne_nil _ _))

theorem numeral_isDigit (n : Nat) : ∀ x ∈ numeral n, isDigit x = true :=
  numeralFuel_isDigit (n + 1) n [] nofun

theorem decimalValue_numeral (n : Nat) : decimalValue (numeral n) = n :=
  decimalFrom_numeralFuel [] (Nat.lt_succ_self n)

theorem numeral_ne_nil (n : Nat) : numeral n ≠ [] :=
  numeralFuel_ne_nil (n + 1) n [] (.inr (Nat.succ_pos n))

theorem not_isSpace_of_isDigit (h : isDigit x = true) : ¬ isSpace x = true := by
  rw [isDigit_iff] at h
  rw [isSpace_iff]
  omega

theorem trim_numeral (n : Nat) : trim (numeral n) = numeral n :=
  trim_eq_self fun x hx => not_isSpace_of_isDigit (numeral_isDigit n x (hx.elim List.mem_of_mem_head? List.mem_of_getLast?))

/-- A numeral whose value fits a cell is a valid token with that value (R124, R125). -/
theorem parseToken_numeral (hfit : v < 2 ^ c.width) : parseToken c (numeral v) = .ok v := by
  have hdigits : dropPlus c (trim (numeral v)) = numeral v :=
    (dropPlus_eq_digits_iff (numeral_isDigit v) (numeral_ne_nil v)).mpr (.inl (trim_numeral v))
  rw [parseToken_eq_ok_iff, hdigits]
  exact ⟨numeral_ne_nil v, numeral_isDigit v, (decimalValue_numeral v).symm, hfit⟩

/-! ### The line and its tokens -/

theorem splitCommas_of_no_comma (h : ∀ x ∈ tok, isComma x = false) : splitCommas tok = [tok] := by
  induction tok with
  | nil => rfl
  | cons x xs ih =>
    obtain ⟨hx, hxs⟩ := List.forall_mem_cons.mp h
    exact splitCommas_cons_other hx (ih hxs)

theorem splitCommas_append_comma (h : ∀ x ∈ tok, isComma x = false) (hx : isComma x = true) :
    splitCommas (tok ++ x :: line) = tok :: splitCommas line := by
  induction tok with
  | nil => exact splitCommas_cons_comma hx
  | cons y ys ih =>
    obtain ⟨hy, hys⟩ := List.forall_mem_cons.mp h
    exact splitCommas_cons_other hy (ih hys)

theorem numeral_no_comma (n : Nat) : ∀ x ∈ numeral n, isComma x = false := by
  intro x hx
  have hdigit := isDigit_iff.mp (numeral_isDigit n x hx)
  simp only [isComma, beq_eq_false_iff_ne]
  omega

/-- The tokens of a program text are the numerals of its cells (R71). -/
theorem splitCommas_programText (hne : cells ≠ []) : splitCommas (programText cells) = cells.map numeral := by
  induction cells with
  | nil => exact absurd rfl hne
  | cons v vs ih =>
    cases vs with
    | nil => exact splitCommas_of_no_comma (numeral_no_comma v)
    | cons w ws =>
      rw [programText, splitCommas_append_comma (numeral_no_comma v) (by decide), ih (List.cons_ne_nil w ws)]
      rfl

theorem programText_no_lineFeed (cells : List Nat) : ∀ x ∈ programText cells, (!isLineFeed x) = true := by
  have hnumeral : ∀ n, ∀ x ∈ numeral n, (!isLineFeed x) = true := by
    intro n x hx
    have hdigit := isDigit_iff.mp (numeral_isDigit n x hx)
    simp only [isLineFeed, Bool.not_eq_true', beq_eq_false_iff_ne]
    omega
  induction cells with
  | nil => exact nofun
  | cons v vs ih =>
    cases vs with
    | nil => exact hnumeral v
    | cons w ws => exact List.forall_mem_append.mpr ⟨hnumeral v, List.forall_mem_cons.mpr ⟨by decide, ih⟩⟩

theorem firstLine_programText (cells : List Nat) : firstLine (programText cells) = programText cells :=
  List.takeWhile_eq_self_iff.mpr (programText_no_lineFeed cells)

theorem firstLine_programText_append (cells : List Nat) (more : Text) :
    firstLine (programText cells ++ Char.ofNat 10 :: more) = programText cells := by
  rw [firstLine, List.takeWhile_append_of_pos (programText_no_lineFeed cells),
    List.takeWhile_cons_of_neg (by decide), List.append_nil]

/-- A text whose first line is a program text loads to its cells (R122, R127). -/
theorem load_of_firstLine (hne : cells ≠ []) (hfit : ∀ v ∈ cells, v < 2 ^ c.width)
    (hline : firstLine text = programText cells) : load c text = .ok { cells := cells } := by
  rw [load_eq_ok, hline, splitCommas_programText hne, parseTokens_eq_ok, List.forall₂_map_left_iff,
    List.forall₂_same]
  exact fun v hv => parseToken_numeral (hfit v hv)

/-- Settles O44: the numerals hold no comma and no line feed, so the tokens are the numerals, each valid with its
value. -/
theorem textOfCellsLoadsBack : Obligations.TextOfCellsLoadsBack := by
  unfold Obligations.TextOfCellsLoadsBack
  intro c cells more hne hfit
  exact ⟨load_of_firstLine hne hfit (firstLine_programText cells),
    load_of_firstLine hne hfit (firstLine_programText_append cells more)⟩

/-! ### Programs -/

theorem decodeProgram_of_decode {i : Instr} {rest : List Nat} {is : List Instr} (h : decode cells = .ok (i, rest))
    (hrest : decodeProgram n rest = .ok is) : decodeProgram (n + 1) cells = .ok (i :: is) := by
  cases cells with
  | nil => simp [decode] at h
  | cons v vs => simp [decodeProgram, h, hrest]

theorem decodeProgram_encodeProgram (is : List Instr) : decodeProgram is.length (encodeProgram is) = .ok is := by
  induction is with
  | nil => rfl
  | cons i is ih => exact decodeProgram_of_decode (decode_encode i (encodeProgram is)) ih

theorem encodeProgram_fits {W : Nat} {is : List Instr} (h : ∀ i ∈ is, i.wellFormed W = true) :
    ∀ v ∈ encodeProgram is, v < 2 ^ W := by
  induction is with
  | nil => exact nofun
  | cons i is ih =>
    obtain ⟨hi, his⟩ := List.forall_mem_cons.mp h
    exact List.forall_mem_append.mpr ⟨Instr.wellFormed_iff.mp hi, ih his⟩

theorem encodeProgram_ne_nil {is : List Instr} (hne : is ≠ []) : encodeProgram is ≠ [] := by
  obtain ⟨i, is, rfl⟩ := List.exists_cons_of_ne_nil hne
  cases i <;> simp [encodeProgram, encode]

/-- Settles O8: the text of the program's cells loads back to them, and they decode instruction after instruction. -/
theorem programTextDecodesToItsInstructions : Obligations.ProgramTextDecodesToItsInstructions := by
  unfold Obligations.ProgramTextDecodesToItsInstructions
  intro c is hne hwf
  exact ⟨{ cells := encodeProgram is },
    load_of_firstLine (encodeProgram_ne_nil hne) (encodeProgram_fits hwf) (firstLine_programText _),
    decodeProgram_encodeProgram is⟩

end Sys2Proof.Machine
end

section
/-! PROOF. The search as a function: the pairs by their rank, the first hit, and what a search cannot find
(45_search_scheduler.md R140 to R151). -/

namespace Sys2Proof.Machine

variable {c : Config} {base m : Memory} {target n v k : Nat} {text : Text}

/-! ### The pairs by rank -/

/-- The pair of rank `r` in row-major order (R141). -/
def pairAt (r : Nat) : Nat × Nat := (r / 100, r % 100)

/-- The rank of a pair is its checksum (R151). -/
theorem pairAt_checksum (hv : v ≤ 99) : pairAt (checksum n v) = (n, v) := by
  simp only [pairAt, checksum, Prod.mk.injEq]
  omega

theorem flatMap_range_eq_map_range {α : Type} (a b : Nat) (f : Nat → α) :
    ((List.range a).flatMap fun i => (List.range b).map fun j => f (b * i + j)) = (List.range (b * a)).map f := by
  induction a with
  | zero => rfl
  | succ a ih => simp [List.range_succ, ih, Nat.mul_succ, List.range_add]

theorem searchPairs_eq : searchPairs = (List.range 10000).map pairAt := by
  rw [show 10000 = 100 * 100 from rfl, ← flatMap_range_eq_map_range]
  refine List.flatMap_congr fun i _ => List.map_congr_left fun j hj => (pairAt_checksum ?_).symm
  exact Nat.le_of_lt_succ (List.mem_range.mp hj)

/-! ### Trials -/

theorem trialMatches_of_patch (hpatch : base.patch n v = .ok m) :
    trialMatches c base target n v = (run c m).matchesTarget target := by
  simp [trialMatches, hpatch]

theorem trialMatches_of_patch_error {f : FaultRecord} (hpatch : base.patch n v = .error f) :
    trialMatches c base target n v = false := by
  simp [trialMatches, hpatch]

theorem trialMatches_iff : trialMatches c base target n v = true ↔ TrialHits c base target n v := by
  unfold TrialHits SafeRun
  rw [Memory.copy_eq]
  cases hpatch : base.patch n v with
  | error f => simp [trialMatches_of_patch_error hpatch]
  | ok m => simp [trialMatches_of_patch hpatch, State.matchesTarget_iff]

/-- The search finds the least rank whose trial hits (R148, R149). -/
theorem search_eq_some_iff :
    search c base target = some (n, v) ↔
      ∃ r, r < 10000 ∧ pairAt r = (n, v) ∧ TrialHits c base target n v ∧
        ∀ j, j < r → ¬ TrialHits c base target (pairAt j).1 (pairAt j).2 := by
  simp only [search, searchPairs_eq, List.find?_map, Option.map_eq_some_iff, List.find?_range_eq_some,
    Function.comp_apply, trialMatches_iff, List.mem_range, Bool.not_eq_true', Bool.eq_false_iff, ne_eq]
  constructor
  · rintro ⟨r, ⟨hhit, hr, hfirst⟩, hpair⟩
    exact ⟨r, hr, hpair, by simpa [hpair] using hhit, hfirst⟩
  · rintro ⟨r, hr, hpair, hhit, hfirst⟩
    exact ⟨r, ⟨by simpa [hpair] using hhit, hr, hfirst⟩, hpair⟩

theorem search_eq_none_iff :
    search c base target = none ↔ ∀ r, r < 10000 → ¬ TrialHits c base target (pairAt r).1 (pairAt r).2 := by
  simp only [search, searchPairs_eq, List.find?_map, Option.map_eq_none_iff, List.find?_eq_none, Function.comp_apply,
    trialMatches_iff, List.mem_range]

/-- Settles O45: row-major order is the order of the ranks, and the search takes the first rank that hits. -/
theorem searchReturnsTheFirstMatch : Obligations.SearchReturnsTheFirstMatch := by
  unfold Obligations.SearchReturnsTheFirstMatch
  intro c base target
  refine ⟨fun n v => ?_, ?_⟩
  · rw [search_eq_some_iff]
    constructor
    · rintro ⟨r, hr, hpair, hhit, hfirst⟩
      obtain ⟨rfl, rfl⟩ := Prod.mk.inj hpair
      refine ⟨by omega, by omega, hhit, fun n' v' _ hv' hbefore => ?_⟩
      have hlt : checksum n' v' < r := by
        unfold PairBefore at hbefore
        unfold checksum
        omega
      simpa only [pairAt_checksum hv'] using hfirst _ hlt
    · rintro ⟨hn, hv, hhit, hfirst⟩
      refine ⟨checksum n v, by unfold checksum; omega, pairAt_checksum hv, hhit, fun j hj => ?_⟩
      unfold checksum at hj
      refine hfirst _ _ (by simp only [pairAt]; omega) (by simp only [pairAt]; omega) ?_
      unfold PairBefore pairAt
      omega
  · rw [search_eq_none_iff]
    constructor
    · intro hnone n v hn hv
      simpa only [pairAt_checksum hv] using hnone (checksum n v) (by unfold checksum; omega)
    · intro hnone r hr
      exact hnone _ _ (by simp only [pairAt]; omega) (by simp only [pairAt]; omega)

theorem search_range (h : search c base target = some (n, v)) : n ≤ 99 ∧ v ≤ 99 := by
  obtain ⟨hn, hv, -, -⟩ := ((searchReturnsTheFirstMatch c base target).1 n v).mp h
  exact ⟨hn, hv⟩

/-! ### Searches that find nothing -/

/-- A search finds nothing where no trial of a pair in range hits (R148). -/
theorem search_eq_none_of_no_hit (h : ∀ n v, n ≤ 99 → v ≤ 99 → ¬ TrialHits c base target n v) :
    search c base target = none :=
  (searchReturnsTheFirstMatch c base target).2.mpr h

/-- A hit needs the cells of the two patches (R143). -/
theorem TrialHits.base_length (h : TrialHits c base target n v) : 3 ≤ base.length := by
  obtain ⟨m, hpatch, -, -⟩ := h
  rw [Memory.copy_eq] at hpatch
  exact (Memory.patch_eq_ok.mp hpatch).1

/-- A hit's target is a cell value where base and patch values are (R23, R144). -/
theorem TrialHits.target_lt (hbase : base.wf c.width = true) (hn : n < 2 ^ c.width) (hv : v < 2 ^ c.width)
    (h : TrialHits c base target n v) : target < 2 ^ c.width := by
  obtain ⟨m, hpatch, -, hread⟩ := h
  have hm : m.wf c.width = true := Memory.patch_keeps_wf (Memory.copy_keeps_wf hbase) hn hv hpatch
  exact Memory.read_fits (runLoop_keeps_wf (s := (State.resetWith c).startRun m) _ hm) hread

/-- Settles O49: a trial that hits has patched three cells, and its cell 0 is a cell value. -/
theorem unreachableSearchesFindNothing : Obligations.UnreachableSearchesFindNothing := by
  unfold Obligations.UnreachableSearchesFindNothing
  intro c base target
  constructor
  · intro hshort
    exact search_eq_none_of_no_hit fun n v _ _ hhit => absurd hhit.base_length (by omega)
  · intro hbase hwidth hover
    have hcell : 2 ^ 7 ≤ 2 ^ c.width := Nat.pow_le_pow_right (by decide) hwidth
    refine search_eq_none_of_no_hit fun n v hn hv hhit => absurd (hhit.target_lt hbase ?_ ?_) (Nat.not_lt.mpr hover)
    · omega
    · omega

/-! ### The decode order -/

theorem run_status_mem_of_decodeOrder (c : Config) (o : DecodeOrder) (m : Memory) :
    (run { c with decodeOrder := o } m).status = (run { c with decodeOrder := .operandsFirst } m).status ∧
    (run { c with decodeOrder := o } m).mem = (run { c with decodeOrder := .operandsFirst } m).mem := by
  cases o with
  | operandsFirst => exact ⟨rfl, rfl⟩
  | opcodeFirst =>
    have hagree := run_ordersAgree c m
    exact ⟨hagree.status.symm, hagree.mem.symm⟩

/-- A trial is judged by the status and the image its run ends with, which no decode order changes (R146). -/
theorem trialMatches_of_decodeOrder (c : Config) (o : DecodeOrder) :
    trialMatches { c with decodeOrder := o } base target n v =
      trialMatches { c with decodeOrder := .operandsFirst } base target n v := by
  cases hpatch : base.patch n v with
  | error f => rw [trialMatches_of_patch_error hpatch, trialMatches_of_patch_error hpatch]
  | ok m =>
    obtain ⟨hstatus, hmem⟩ := run_status_mem_of_decodeOrder c o m
    rw [trialMatches_of_patch hpatch, trialMatches_of_patch hpatch]
    simp only [State.matchesTarget, hstatus, hmem]

theorem search_of_decodeOrder (c : Config) (o : DecodeOrder) (base : Memory) (target : Nat) :
    search { c with decodeOrder := o } base target = search { c with decodeOrder := .operandsFirst } base target := by
  simp only [search, trialMatches_of_decodeOrder c o]

/-- Settles O50: under every order a search is the one under `OperandsFirst`. -/
theorem searchIgnoresDecodeOrder : Obligations.SearchIgnoresDecodeOrder := by
  unfold Obligations.SearchIgnoresDecodeOrder
  intro c o base target
  exact (search_of_decodeOrder c o base target).trans (search_of_decodeOrder c c.decodeOrder base target).symm

/-! ### Calibration -/

theorem calibrate_of_load_error {f : FaultRecord} (hload : load c text = .error f) :
    calibrate c text target = .error f := by
  simp [calibrate, hload]

theorem calibrate_of_found (hload : load c text = .ok base) (hfound : search c base target = some (n, v)) :
    calibrate c text target = .foundChecksum n v (checksum n v) := by
  simp [calibrate, hload, hfound]

theorem calibrate_of_none (hload : load c text = .ok base) (hnone : search c base target = none) :
    calibrate c text target = .notFound := by
  simp [calibrate, hload, hnone]

/-- Settles O59: a pair is returned only from a search on the loaded base, with its checksum, and is in range. -/
theorem calibrationChecksumIsExact : Obligations.CalibrationChecksumIsExact := by
  unfold Obligations.CalibrationChecksumIsExact
  intro c text target n v k h
  cases hload : load c text with
  | error f => simp [calibrate_of_load_error hload] at h
  | ok base =>
    cases hsearch : search c base target with
    | none => simp [calibrate_of_none hload hsearch] at h
    | some p =>
      rw [calibrate_of_found hload hsearch, Reply.foundChecksum.injEq] at h
      obtain ⟨rfl, rfl, rfl⟩ := h
      obtain ⟨hn, hv⟩ := search_range hsearch
      exact ⟨rfl, by unfold checksum; omega, base, rfl, hsearch⟩

end Sys2Proof.Machine
end

section
/-! PROOF. The scheduler's steps: a trial starts, a match ends the search, no match goes on with the next pair
(45_search_scheduler.md R142 to R149). -/

namespace Sys2Proof.Machine

variable {s t : State} {m : Memory} {f : FaultRecord}

/-! ### One move of the scheduler -/

theorem step_of_not_running (hr : s.status ≠ .running) : step s = controlStep s := by
  unfold step
  split
  · next hs => exact absurd hs hr
  · rfl

theorem step_of_search (ha : s.activity = .search ∨ s.activity = .calibrate) (hr : s.status ≠ .running) :
    step s = .next s.schedule := by
  rw [step_of_not_running hr]
  rcases ha with ha | ha <;> simp [controlStep, ha]

theorem State.schedule_of_ne_idle (hs : s.status ≠ .idle) : s.schedule = s.endTrial := by
  unfold State.schedule
  split
  · next h => exact absurd h hs
  · rfl

theorem State.schedule_of_patch (hs : s.status = .idle) (hpatch : s.base.patch s.noun s.verb = .ok m) :
    s.schedule = s.startRun m := by
  rw [State.schedule_of_idle hs, State.startTrial, Memory.copy_eq, hpatch]

theorem State.schedule_of_patch_error (hs : s.status = .idle) (hpatch : s.base.patch s.noun s.verb = .error f) :
    s.schedule = s.nextPair := by
  rw [State.schedule_of_idle hs, State.startTrial, Memory.copy_eq, hpatch]

theorem State.schedule_of_match (hs : s.status = .halted) (hread : s.mem.read 0 = .ok s.target) :
    s.schedule = s.searchFound := by
  rw [State.schedule_of_ne_idle (by simp [hs]), State.endTrial, if_pos (State.matchesTarget_iff.mpr ⟨hs, hread⟩)]

theorem State.schedule_of_no_match (hs : s.status ≠ .idle) (hno : ¬ (s.status = .halted ∧ s.mem.read 0 = .ok s.target)) :
    s.schedule = s.discardRun.nextPair := by
  rw [State.schedule_of_ne_idle hs, State.endTrial, if_neg fun h => hno (State.matchesTarget_iff.mp h)]

/-- Everything the scheduler can do between two runs (R142 to R148). -/
theorem State.schedule_cases (s : State) :
    (∃ m, s.status = .idle ∧ s.base.patch s.noun s.verb = .ok m ∧ s.schedule = s.startRun m) ∨
    (s.status = .halted ∧ s.mem.read 0 = .ok s.target ∧ s.schedule = s.searchFound) ∨
    (s.status = .idle ∧ s.schedule = s.nextPair) ∨
    (s.status ≠ .idle ∧ s.schedule = s.discardRun.nextPair) := by
  by_cases hs : s.status = .idle
  · cases hpatch : s.base.patch s.noun s.verb with
    | ok m => exact .inl ⟨m, hs, rfl, State.schedule_of_patch hs hpatch⟩
    | error f => exact .inr (.inr (.inl ⟨hs, State.schedule_of_patch_error hs hpatch⟩))
  · by_cases hmatch : s.status = .halted ∧ s.mem.read 0 = .ok s.target
    · exact .inr (.inl ⟨hmatch.1, hmatch.2, State.schedule_of_match hmatch.1 hmatch.2⟩)
    · exact .inr (.inr (.inr ⟨hs, State.schedule_of_no_match hs hmatch⟩))

/-! ### The next pair -/

/-- The move to the next pair writes the pair, and at the last one the scheduler's status, result and reply (R141, R148). -/
theorem State.nextPair_writes (s : State) :
    s.nextPair.fault = s.fault ∧
    s.nextPair.result = (if s.noun < 99 ∨ s.verb < 99 then s.result else none) ∧
    (s.verb < 99 → s.nextPair.noun = s.noun ∧ s.nextPair.verb = s.verb + 1 ∧ s.nextPair.sstatus = s.sstatus) ∧
    (99 ≤ s.verb → s.noun < 99 →
      s.nextPair.noun = s.noun + 1 ∧ s.nextPair.verb = 0 ∧ s.nextPair.sstatus = s.sstatus) ∧
    (99 ≤ s.verb → 99 ≤ s.noun →
      s.nextPair.sstatus = .notFound ∧ s.nextPair.reply = some .notFound ∧ s.nextPair.activity = .idle) := by
  obtain ⟨hv, h⟩ | ⟨hv, hn, h⟩ | ⟨hv, hn, h⟩ := s.nextPair_cases <;> rw [h]
  · simp [hv, Nat.not_le.mpr hv]
  · simp [hv, hn, Nat.not_lt.mpr hv, Nat.not_le.mpr hn]
  · simp [hv, hn, Nat.not_lt.mpr hv, Nat.not_lt.mpr hn]

/-- Settles O47: each of the three kinds of no match moves the scheduler to the next pair, after a run with the core
discarded. -/
theorem trialFaultsAreContained : Obligations.TrialFaultsAreContained := by
  unfold Obligations.TrialFaultsAreContained
  intro s ha hno
  by_cases hidle : s.status = .idle
  · have hshort : s.base.length < 3 := by simpa [hidle] using hno
    have hmove : s.schedule = s.nextPair := by
      cases hpatch : s.base.patch s.noun s.verb with
      | ok m => exact absurd (Memory.patch_eq_ok.mp hpatch).1 (by omega)
      | error f => exact State.schedule_of_patch_error hidle hpatch
    obtain ⟨hfault, hpair⟩ := s.nextPair_writes
    refine ⟨s.nextPair, hmove ▸ step_of_search ha (by simp [hidle]), ?_, fun h => absurd hidle h, fun _ => hfault, hpair⟩
    rw [State.nextPair_status, hidle]
  · have hmove : s.schedule = s.discardRun.nextPair := by
      refine State.schedule_of_no_match hidle fun ⟨hhalted, hread⟩ => ?_
      simp [hhalted, hread] at hno
    obtain ⟨hfault, hpair⟩ := s.discardRun.nextPair_writes
    have hstopped : s.status ≠ .running := by
      rcases hno with hs | ⟨hs, -⟩ | ⟨hs, -⟩ <;> simp [hs]
    exact ⟨s.discardRun.nextPair, hmove ▸ step_of_search ha hstopped, State.nextPair_status _, fun _ => hfault,
      fun h => absurd h hidle, hpair⟩

/-- Settles O48: judging a trial that matches is the end of the search with its pair. -/
theorem matchEndsTheSearchAtOnce : Obligations.MatchEndsTheSearchAtOnce := by
  unfold Obligations.MatchEndsTheSearchAtOnce
  intro s ha hs hread
  have hstep : step s = .next s.searchFound :=
    State.schedule_of_match hs hread ▸ step_of_search ha (by simp [hs])
  refine ⟨s.searchFound, hstep, rfl, rfl, rfl, fun hsearch => ?_, fun hcalibrate => ?_⟩
  · rw [State.searchFound_reply, State.foundReply, hsearch]
  · rw [State.searchFound_reply, State.foundReply, hcalibrate]
    rfl

/-! ### The rank of the current pair -/

theorem State.nextPair_rank (hn : s.noun ≤ 99) (hv : s.verb ≤ 99) :
    s.nextPair.noun ≤ 99 ∧ s.nextPair.verb ≤ 99 ∧
    (s.nextPair.noun * 100 + s.nextPair.verb = s.noun * 100 + s.verb ∨
      s.nextPair.noun * 100 + s.nextPair.verb = s.noun * 100 + s.verb + 1) := by
  obtain ⟨hv', h⟩ | ⟨hv', hn', h⟩ | ⟨hv', hn', h⟩ := s.nextPair_cases <;> rw [h]
  · exact ⟨hn, Nat.succ_le_of_lt hv', .inr rfl⟩
  · exact ⟨Nat.succ_le_of_lt hn', Nat.zero_le _, .inr (by simp only; omega)⟩
  · exact ⟨hn, hv, .inl rfl⟩

theorem State.schedule_rank (hn : s.noun ≤ 99) (hv : s.verb ≤ 99) :
    s.schedule.noun ≤ 99 ∧ s.schedule.verb ≤ 99 ∧
    (s.schedule.noun * 100 + s.schedule.verb = s.noun * 100 + s.verb ∨
      s.schedule.noun * 100 + s.schedule.verb = s.noun * 100 + s.verb + 1) := by
  obtain ⟨m, -, -, h⟩ | ⟨-, -, h⟩ | ⟨-, h⟩ | ⟨-, h⟩ := s.schedule_cases <;> rw [h]
  · exact ⟨hn, hv, .inl rfl⟩
  · exact ⟨hn, hv, .inl rfl⟩
  · exact State.nextPair_rank hn hv
  · exact State.nextPair_rank (s := s.discardRun) hn hv

/-- Settles O51: the core leaves the pair, and the scheduler keeps its rank or raises it by one, in the range. -/
theorem pairsAdvanceOneAtATime : Obligations.PairsAdvanceOneAtATime := by
  unfold Obligations.PairsAdvanceOneAtATime
  intro s t hinv hsearching hstep
  have hn := hinv.nounRange
  have hv := hinv.verbRange
  obtain ⟨-, hcore⟩ | ⟨-, rfl⟩ := step_cases_of_search (hinv.searching.mp hsearching) hstep
  · rw [coreStep_frame hcore]
    exact ⟨.inl rfl, by simp only; omega⟩
  · obtain ⟨hn', hv', hrank⟩ := State.schedule_rank hn hv
    exact ⟨hrank, by omega⟩

end Sys2Proof.Machine
end

section
/-! PROOF. How transactions start, are refused, and end (46_host_interface.md R160 to R165, 10_state.md R33). -/

namespace Sys2Proof.Machine

variable {s t : State} {r : Request} {c : Config} {text : Text} {noun verb target : Nat} {m m' base : Memory}
  {f : FaultRecord}

/-! ### The first step of a pending transaction -/

theorem step_of_pending (h : s.Pending r) : step s = s.begin r := by
  obtain ⟨hr, ha, hq⟩ := h
  rw [step_of_not_running hr, controlStep, ha, hq]

/-- A transaction starts from the reset values under the parameters (R33; log 7). -/
theorem State.begin_congr {s' : State} (h : s.cfg = s'.cfg) (r : Request) : s.begin r = s'.begin r := by
  simp only [State.begin, h]

/-- Settles O33: the start reads the parameters and the request alone. -/
theorem transactionsStartFromTheParametersAlone : Obligations.TransactionsStartFromTheParametersAlone := by
  unfold Obligations.TransactionsStartFromTheParametersAlone
  intro s s' r hcfg h h'
  rw [step_of_pending h, step_of_pending h', State.begin_congr hcfg]

/-! ### Each transaction's start -/

theorem State.begin_load_ok (h : load s.cfg text = .ok m) :
    s.begin (.load text) = .next ((State.resetWith s.cfg).finish (.image m)) := by
  simp [State.begin, State.beginLoad, h]

theorem State.begin_load_error (h : load s.cfg text = .error f) :
    s.begin (.load text) = .next ((State.resetWith s.cfg).finish (.error f)) := by
  simp [State.begin, State.beginLoad, h]

theorem State.begin_run (h : m.wf s.cfg.width = true) :
    s.begin (.run m) = .next { (State.resetWith s.cfg).startRun m with activity := .run } := by
  simp [State.begin, State.beginRun, h]

theorem State.begin_run_refused (h : m.wf s.cfg.width = false) : s.begin (.run m) = .refused .notAnImage := by
  simp [State.begin, State.beginRun, h]

theorem State.begin_search (hwidth : 7 ≤ s.cfg.width) (h : base.wf s.cfg.width = true) :
    s.begin (.search base target) = .next ((State.resetWith s.cfg).beginSearch .search base target) := by
  simp [State.begin, State.beginSearchOn, h, Nat.not_lt.mpr hwidth]

theorem State.begin_search_narrow (hwidth : s.cfg.width < 7) :
    s.begin (.search base target) = .refused .noSearchBelowSevenBits := by
  simp [State.begin, State.beginSearchOn, hwidth]

theorem State.begin_search_refused (hwidth : 7 ≤ s.cfg.width) (h : base.wf s.cfg.width = false) :
    s.begin (.search base target) = .refused .notAnImage := by
  simp [State.begin, State.beginSearchOn, h, Nat.not_lt.mpr hwidth]

theorem State.begin_direct_load_error (h : load s.cfg text = .error f) :
    s.begin (.direct text noun verb) = .next ((State.resetWith s.cfg).finish (.error f)) := by
  simp [State.begin, State.beginDirect, h]

theorem State.begin_direct_refused (h : load s.cfg text = .ok m)
    (hvalues : ¬ (noun < 2 ^ s.cfg.width ∧ verb < 2 ^ s.cfg.width)) :
    s.begin (.direct text noun verb) = .refused .notACellValue := by
  simp only [State.begin, State.beginDirect, State.resetWith_cfg, h, hvalues, if_false]

theorem State.begin_direct_patch_error (h : load s.cfg text = .ok m)
    (hvalues : noun < 2 ^ s.cfg.width ∧ verb < 2 ^ s.cfg.width) (hpatch : m.patch noun verb = .error f) :
    s.begin (.direct text noun verb) = .next ((State.resetWith s.cfg).finish (.error f)) := by
  simp only [State.begin, State.beginDirect, State.resetWith_cfg, h, hvalues, and_self, if_true, hpatch]

theorem State.begin_direct_run (h : load s.cfg text = .ok m)
    (hvalues : noun < 2 ^ s.cfg.width ∧ verb < 2 ^ s.cfg.width) (hpatch : m.patch noun verb = .ok m') :
    s.begin (.direct text noun verb) = .next { (State.resetWith s.cfg).startRun m' with activity := .direct } := by
  simp only [State.begin, State.beginDirect, State.resetWith_cfg, h, hvalues, and_self, if_true, hpatch]

theorem State.begin_calibrate_load_error (h : load s.cfg text = .error f) :
    s.begin (.calibrate text target) = .next ((State.resetWith s.cfg).finish (.error f)) := by
  simp [State.begin, State.beginCalibrate, h]

theorem State.begin_calibrate_narrow (h : load s.cfg text = .ok base) (hwidth : s.cfg.width < 7) :
    s.begin (.calibrate text target) = .refused .noSearchBelowSevenBits := by
  simp [State.begin, State.beginCalibrate, h, hwidth]

theorem State.begin_calibrate (h : load s.cfg text = .ok base) (hwidth : 7 ≤ s.cfg.width) :
    s.begin (.calibrate text target) = .next ((State.resetWith s.cfg).beginSearch .calibrate base target) := by
  simp [State.begin, State.beginCalibrate, h, Nat.not_lt.mpr hwidth]

/-! ### What every start has in common -/

/-- The three states a transaction can lead to in its first step: it has ended, its run has started on an image, or its
search has begun on one. -/
inductive Started (c : Config) : State → Prop
  | ended (reply : Reply) : Started c ((State.resetWith c).finish reply)
  | running (a : Activity) (m : Memory) (ha : a = .run ∨ a = .direct) (hm : m.wf c.width = true) :
      Started c { (State.resetWith c).startRun m with activity := a }
  | searching (a : Activity) (base : Memory) (target : Nat) (ha : a = .search ∨ a = .calibrate)
      (hbase : base.wf c.width = true) (hwidth : 7 ≤ c.width) :
      Started c ((State.resetWith c).beginSearch a base target)

/-- Everything the start of a transaction can do: an admitted one starts, any other is refused (log 11). -/
theorem State.begin_cases (s : State) (r : Request) :
    (r.admitted s.cfg = true ∧ ∃ t, s.begin r = .next t ∧ Started s.cfg t) ∨
    (r.admitted s.cfg = false ∧ ∃ e, s.begin r = .refused e) := by
  cases r with
  | load text =>
    refine .inl ⟨rfl, ?_⟩
    cases hload : load s.cfg text with
    | ok m => exact ⟨_, State.begin_load_ok hload, .ended _⟩
    | error f => exact ⟨_, State.begin_load_error hload, .ended _⟩
  | run m =>
    cases hm : m.wf s.cfg.width with
    | true => exact .inl ⟨hm, _, State.begin_run hm, .running .run m (.inl rfl) hm⟩
    | false => exact .inr ⟨hm, _, State.begin_run_refused hm⟩
  | search base target =>
    rcases Nat.lt_or_ge s.cfg.width 7 with hwidth | hwidth
    · exact .inr ⟨by simp [Request.admitted, hwidth], _, State.begin_search_narrow hwidth⟩
    cases hbase : base.wf s.cfg.width with
    | true =>
      exact .inl ⟨by simp [Request.admitted, hwidth, hbase], _, State.begin_search hwidth hbase,
        .searching .search base target (.inl rfl) hbase hwidth⟩
    | false => exact .inr ⟨by simp [Request.admitted, hbase], _, State.begin_search_refused hwidth hbase⟩
  | direct text noun verb =>
    cases hload : load s.cfg text with
    | error f => exact .inl ⟨by simp [Request.admitted, hload], _, State.begin_direct_load_error hload, .ended _⟩
    | ok m =>
    have hadmitted : Request.admitted s.cfg (.direct text noun verb) =
        decide (noun < 2 ^ s.cfg.width ∧ verb < 2 ^ s.cfg.width) := by simp [Request.admitted, hload]
    by_cases hvalues : noun < 2 ^ s.cfg.width ∧ verb < 2 ^ s.cfg.width
    · refine .inl ⟨hadmitted.trans (decide_eq_true hvalues), ?_⟩
      cases hpatch : m.patch noun verb with
      | error f => exact ⟨_, State.begin_direct_patch_error hload hvalues hpatch, .ended _⟩
      | ok m' =>
        exact ⟨_, State.begin_direct_run hload hvalues hpatch, .running .direct m' (.inr rfl)
          (Memory.patch_keeps_wf (load_makes_image hload) hvalues.1 hvalues.2 hpatch)⟩
    · exact .inr ⟨hadmitted.trans (decide_eq_false hvalues), _, State.begin_direct_refused hload hvalues⟩
  | calibrate text target =>
    cases hload : load s.cfg text with
    | error f => exact .inl ⟨by simp [Request.admitted, hload], _, State.begin_calibrate_load_error hload, .ended _⟩
    | ok base =>
    rcases Nat.lt_or_ge s.cfg.width 7 with hwidth | hwidth
    · exact .inr ⟨by simp [Request.admitted, hload, hwidth], _, State.begin_calibrate_narrow hload hwidth⟩
    · exact .inl ⟨by simp [Request.admitted, hload, hwidth], _, State.begin_calibrate hload hwidth,
        .searching .calibrate base target (.inr rfl) (load_makes_image hload) hwidth⟩

theorem State.begin_started (h : s.begin r = .next t) : Started s.cfg t := by
  obtain ⟨-, t', ht', hstarted⟩ | ⟨-, e, he⟩ := s.begin_cases r
  · obtain rfl := Host.Outcome.next.inj (ht'.symm.trans h)
    exact hstarted
  · cases he.symm.trans h

/-- Settles O60: an admitted transaction starts, any other is refused, and no outcome is both. -/
theorem onlyInadmissibleTransactionsAreRefused : Obligations.OnlyInadmissibleTransactionsAreRefused := by
  unfold Obligations.OnlyInadmissibleTransactionsAreRefused
  intro s r hpending
  rw [step_of_pending hpending]
  obtain ⟨hadmitted, t, ht, -⟩ | ⟨hadmitted, e, he⟩ := s.begin_cases r
  · simp [hadmitted, ht]
  · simp [hadmitted, he]

/-! ### Starts that lead to a run, and the end of a load -/

/-- Settles O23: the start of `RUN`, of `DIRECT` past load and patch, and of a trial is `startRun` on the image given. -/
theorem runStartsAtZero : Obligations.RunStartsAtZero := by
  unfold Obligations.RunStartsAtZero
  refine ⟨fun s m hpending hm => ?_, fun s text noun verb m m' hpending hnoun hverb hload hpatch => ?_,
    fun s m hidle ha hpatch => ?_⟩
  · exact ⟨_, (step_of_pending hpending).trans (State.begin_run hm), rfl, rfl, rfl, rfl, rfl⟩
  · exact ⟨_, (step_of_pending hpending).trans (State.begin_direct_run hload ⟨hnoun, hverb⟩ hpatch), rfl, rfl, rfl, rfl,
      rfl⟩
  · rw [Memory.copy_eq] at hpatch
    exact ⟨_, State.schedule_of_patch hidle hpatch ▸ step_of_search ha (by simp [hidle]), rfl, rfl, rfl, rfl, rfl⟩

/-- A transaction that ends in its first step leaves the block at rest with its result (R160). -/
theorem State.finished_resetWith_finish (c : Config) (reply : Reply) :
    ((State.resetWith c).finish reply).Finished reply := by
  constructor <;> simp

/-- Settles O53: a load ends in its first step, with the image or the error. -/
theorem loadTransactionReachesItsResult : Obligations.LoadTransactionReachesItsResult := by
  unfold Obligations.LoadTransactionReachesItsResult
  intro s text hpending
  rw [step_of_pending hpending, perform]
  cases hload : load s.cfg text with
  | ok m => exact ⟨_, State.begin_load_ok hload, State.finished_resetWith_finish _ _, rfl⟩
  | error f => exact ⟨_, State.begin_load_error hload, State.finished_resetWith_finish _ _, rfl⟩

/-! ### The end of a run outside a search -/

theorem State.endRun_of_ne_idle {reply : Reply} (hs : s.status ≠ .idle) : s.endRun reply = .next (s.finish reply) := by
  unfold State.endRun
  split
  · next h => exact absurd h hs
  · rfl

theorem step_of_ended_run (hr : s.status ≠ .running) (hs : s.status ≠ .idle) (ha : s.activity = .run) :
    step s = .next (s.finish s.runReply) := by
  rw [step_of_not_running hr, controlStep, ha, ← State.endRun_of_ne_idle hs]

theorem step_of_ended_direct (hr : s.status ≠ .running) (hs : s.status ≠ .idle) (ha : s.activity = .direct) :
    step s = .next (s.finish s.directReply) := by
  rw [step_of_not_running hr, controlStep, ha, ← State.endRun_of_ne_idle hs]

/-- Settles O31: the step after the end of a run is the end of its transaction. -/
theorem finishedRunTakesNoFurtherStep : Obligations.FinishedRunTakesNoFurtherStep := by
  unfold Obligations.FinishedRunTakesNoFurtherStep
  intro s hended ha
  have hr : s.status ≠ .running := by rcases hended with h | h <;> simp [h]
  have hs : s.status ≠ .idle := by rcases hended with h | h <;> simp [h]
  rcases ha with ha | ha
  · exact ⟨_, step_of_ended_run hr hs ha, rfl, rfl, rfl⟩
  · exact ⟨_, step_of_ended_direct hr hs ha, rfl, rfl, rfl⟩

end Sys2Proof.Machine
end

section
/-! PROOF. The invariant of the block: at reset, under the host's move and under every step; and the transitions of the
two status registers (10_state.md sections 1 to 3, 45_search_scheduler.md R155). -/

namespace Sys2Proof.Machine

variable {s t : State} {r : Request} {c : Config} {m : Memory}

/-! ### Reset -/

theorem State.resetWith_inv (hc : c.wf) : (State.resetWith c).Inv := by
  constructor <;> simp [hc]

/-- Settles O34: the default parameters are parameters. -/
theorem invariantHoldsAtReset : Obligations.InvariantHoldsAtReset := by
  unfold Obligations.InvariantHoldsAtReset
  exact State.resetWith_inv (by decide)

/-- Settles O32: the reset values as they are written. -/
theorem resetStateIsAsTheSpecSays : Obligations.ResetStateIsAsTheSpecSays := by
  unfold Obligations.ResetStateIsAsTheSpecSays
  exact ⟨rfl, rfl, rfl, rfl, rfl, rfl, rfl⟩

/-! ### The host's move -/

theorem State.submit_of_free (ha : s.activity = .idle) (hq : s.request = none) :
    s.submit r = { s with request := some r } := by
  simp [State.submit, ha, hq]

theorem State.submit_of_busy (h : s.activity ≠ .idle ∨ s.request ≠ none) : s.submit r = s := by
  unfold State.submit
  split
  · next ha hq => simp [ha, hq] at h
  · rfl

theorem State.submit_keeps_inv (h : s.Inv) : (s.submit r).Inv := by
  by_cases hbusy : s.activity ≠ .idle ∨ s.request ≠ none
  · rwa [State.submit_of_busy hbusy]
  · obtain ⟨ha, hq⟩ : s.activity = .idle ∧ s.request = none := by simpa only [not_or, not_not] using hbusy
    rw [State.submit_of_free ha hq]
    exact { h with oneTransaction := fun _ => ha }

/-- Settles O36: only a free block takes the request, and the request is no clause's concern but that none is in
progress. -/
theorem submittingKeepsTheInvariant : Obligations.SubmittingKeepsTheInvariant := by
  unfold Obligations.SubmittingKeepsTheInvariant
  intro s r
  refine ⟨State.submit_keeps_inv, fun ha hq => ?_, State.submit_of_busy⟩
  rw [State.submit_of_free ha hq]
  exact ⟨rfl, fun hr => ⟨hr, ha, rfl⟩⟩

/-! ### The invariant under the core's registers -/

/-- The invariant where only the core has changed, inside a transaction, to a point of a run. -/
theorem State.Inv.of_core (h : s.Inv) (hactive : s.activity ≠ .idle)
    (hframe : t = { s with status := t.status, ip := t.ip, fault := t.fault, steps := t.steps, mem := t.mem })
    (hmem : t.mem.wf s.cfg.width = true) (hrun : t.RunInv) (hnone : s.cfg.stepLimit = none → t.steps = 0)
    (hbound : ∀ n, s.cfg.stepLimit = some n → t.steps ≤ n) : t.Inv := by
  rw [hframe]
  exact { h with
    memory := hmem, aligned := hrun.aligned, inReach := hrun.inReach, faultHeld := hrun.faultHeld,
    stepsUnused := hnone, stepsBounded := hbound, runOwned := fun _ => hactive, runStarted := fun _ => hrun.started }

theorem coreStep_keeps_inv (h : s.Inv) (hrun : s.status = .running) (hs : coreStep s = .next t) : t.Inv := by
  have hpoint : s.RunInv := ⟨by simp [hrun], h.aligned, h.inReach, h.faultHeld, by simp [hrun]⟩
  have hmem := coreStep_keeps_wf h.memory hs
  rw [coreStep_cfg hs] at hmem
  obtain ⟨hnone, hcounted, hrefused⟩ := stepLimitCountsAttempts s t hrun (step_of_running hrun ▸ hs)
  refine h.of_core (h.runOwned hrun) (coreStep_frame hs) hmem (coreStep_keeps_runInv hpoint hrun hs)
    (fun hn => (hnone hn).trans (h.stepsUnused hn)) fun n hn => ?_
  rcases Nat.lt_or_ge s.steps n with hlt | hge
  · exact hcounted n hn hlt ▸ hlt
  · rw [hrefused n hn hge]
    exact h.stepsBounded n hn

theorem State.Inv.startRun (h : s.Inv) (hactive : s.activity ≠ .idle) (hm : m.wf s.cfg.width = true) :
    (s.startRun m).Inv :=
  h.of_core hactive rfl hm (s.startRun_runInv m) (fun _ => rfl) fun n _ => Nat.zero_le n

/-! ### The invariant under the scheduler's moves -/

theorem State.Inv.discardRun (h : s.Inv) (ha : s.activity = .search ∨ s.activity = .calibrate) : s.discardRun.Inv :=
  { h with
    memory := Memory.empty_wf, aligned := rfl, inReach := Nat.zero_le _, faultHeld := by simp
    stepsUnused := fun _ => rfl, stepsBounded := fun n _ => Nat.zero_le n, runOwned := nofun
    runStarted := fun hrun => by rcases ha with ha | ha <;> simp [ha] at hrun }

theorem State.Inv.nextPair (h : s.Inv) (ha : s.activity = .search ∨ s.activity = .calibrate) (hs : s.status = .idle) :
    s.nextPair.Inv := by
  have hsearching : s.sstatus = .searching := h.searching.mpr ha
  have hnotFound : s.sstatus ≠ .found := by simp [hsearching]
  obtain ⟨hv, hnext⟩ | ⟨-, hn, hnext⟩ | ⟨-, -, hnext⟩ := s.nextPair_cases <;> rw [hnext]
  · exact { h with verbRange := hv, resultFound := fun hfound => absurd hfound hnotFound }
  · exact { h with
      nounRange := hn, verbRange := Nat.zero_le _, resultFound := fun hfound => absurd hfound hnotFound }
  · exact { h with
      resultFound := nofun, resultNone := fun _ => rfl, searching := by simp, searchWidth := nofun
      runOwned := fun hrun => by simp [hs] at hrun
      runStarted := by simp, oneTransaction := fun _ => rfl }

theorem State.Inv.searchFound (h : s.Inv) (hs : s.status = .halted) : s.searchFound.Inv :=
  { h with
    resultFound := fun _ => rfl, resultNone := fun hne => absurd rfl hne, searching := by simp, searchWidth := nofun
    runOwned := fun hrun => by simp [hs] at hrun
    runStarted := by simp, oneTransaction := fun _ => rfl }

theorem State.Inv.schedule (h : s.Inv) (ha : s.activity = .search ∨ s.activity = .calibrate) : s.schedule.Inv := by
  obtain ⟨m, -, hpatch, hmove⟩ | ⟨hhalted, -, hmove⟩ | ⟨hidle, hmove⟩ | ⟨-, hmove⟩ := s.schedule_cases <;> rw [hmove]
  · have hwidth : 2 ^ 7 ≤ 2 ^ s.cfg.width := Nat.pow_le_pow_right (by decide) (h.searchWidth (h.searching.mpr ha))
    have hn := h.nounRange
    have hv := h.verbRange
    have hactive : s.activity ≠ .idle := by rcases ha with ha | ha <;> simp [ha]
    exact h.startRun hactive (Memory.patch_keeps_wf h.baseImage (by omega) (by omega) hpatch)
  · exact h.searchFound hhalted
  · exact h.nextPair ha hidle
  · exact (h.discardRun ha).nextPair ha rfl

/-! ### The invariant at the ends of a transaction -/

theorem State.Inv.finish {reply : Reply} (h : s.Inv) (hr : s.status ≠ .running)
    (ha : s.activity ≠ .search ∧ s.activity ≠ .calibrate) : (s.finish reply).Inv :=
  { h with
    searching := by simp [h.searching, ha]
    runOwned := fun hrun => absurd hrun hr
    runStarted := by simp, oneTransaction := fun _ => rfl }

theorem Started.inv (hc : c.wf) (h : Started c t) : t.Inv := by
  have hreset := State.resetWith_inv hc
  cases h with
  | ended reply => exact hreset.finish (by simp) (by simp)
  | running a m ha hm =>
    have hpoint := (State.resetWith c).startRun_runInv m
    exact { hreset with
      memory := hm, inReach := hpoint.inReach, faultHeld := hpoint.faultHeld
      searching := by rcases ha with rfl | rfl <;> simp
      runOwned := fun _ => by rcases ha with rfl | rfl <;> simp
      runStarted := fun _ => hpoint.started, oneTransaction := nofun }
  | searching a base target ha hbase hwidth =>
    exact { hreset with
      baseImage := hbase, resultFound := nofun, resultNone := fun _ => rfl, searching := by simp [ha]
      searchWidth := fun _ => hwidth, runOwned := nofun
      runStarted := fun hrun => by rcases ha with rfl | rfl <;> simp at hrun
      oneTransaction := nofun }

/-- Settles O35: the core's step, the start and the end of a transaction and the scheduler's move each keep it. -/
theorem everyStepKeepsTheInvariant : Obligations.EveryStepKeepsTheInvariant := by
  unfold Obligations.EveryStepKeepsTheInvariant
  intro s t h hstep
  obtain ⟨hrun, hcore⟩ | ⟨-, -, r, -, hbegin⟩ | ⟨hr, -, ⟨ha, rfl⟩ | ⟨ha, rfl⟩⟩ | ⟨-, ha, rfl⟩ := step_cases hstep
  · exact coreStep_keeps_inv h hrun hcore
  · exact (State.begin_started hbegin).inv h.config
  · exact h.finish hr (by simp [ha])
  · exact h.finish hr (by simp [ha])
  · exact h.schedule ha

/-! ### No stop inside a transaction -/

/-- Settles O37: the core always steps, a search always moves, and the run of a `RUN` or `DIRECT` has been started, so
that its end is a step. -/
theorem noStepStopsInsideATransaction : Obligations.NoStepStopsInsideATransaction := by
  unfold Obligations.NoStepStopsInsideATransaction
  intro s h hinside
  by_cases hr : s.status = .running
  · rw [step_of_running hr]
    exact coreStep_next s
  have hactive : s.activity ≠ .idle := hinside.resolve_left hr
  cases ha : s.activity with
  | idle => exact absurd ha hactive
  | run => exact ⟨_, step_of_ended_run hr (h.runStarted (.inl ha)) ha⟩
  | direct => exact ⟨_, step_of_ended_direct hr (h.runStarted (.inr ha)) ha⟩
  | search => exact ⟨_, step_of_search (.inl ha) hr⟩
  | calibrate => exact ⟨_, step_of_search (.inr ha) hr⟩

/-! ### The core's status -/

theorem Started.cfg (h : Started c t) : t.cfg = c := by
  cases h <;> rfl

theorem step_cfg (h : step s = .next t) : t.cfg = s.cfg := by
  obtain ⟨-, hcore⟩ | ⟨-, -, r, -, hbegin⟩ | ⟨-, -, ⟨-, rfl⟩ | ⟨-, rfl⟩⟩ | ⟨-, -, rfl⟩ := step_cases h
  · exact coreStep_cfg hcore
  · exact (State.begin_started hbegin).cfg
  · rfl
  · rfl
  · exact s.schedule_keeps.2.2

/-- A step outside a run starts one, leaves the core idle, or leaves its status (R24; log 13). -/
theorem step_status_of_not_running (hr : s.status ≠ .running) (h : step s = .next t) :
    (t.status = .running ∧ t.ip = 0 ∧ t.fault = none ∧ t.steps = 0) ∨ t.status = .idle ∨ t.status = s.status := by
  obtain ⟨hrun, -⟩ | ⟨-, -, r, -, hbegin⟩ | ⟨-, -, ⟨-, rfl⟩ | ⟨-, rfl⟩⟩ | ⟨-, -, rfl⟩ := step_cases h
  · exact absurd hrun hr
  · cases State.begin_started hbegin with
    | ended reply => exact .inr (.inl rfl)
    | running a m ha hm => exact .inl ⟨rfl, rfl, rfl, rfl⟩
    | searching a base target ha hbase hwidth => exact .inr (.inl rfl)
  · exact .inr (.inr rfl)
  · exact .inr (.inr rfl)
  · obtain ⟨m, -, -, hmove⟩ | ⟨-, -, hmove⟩ | ⟨-, hmove⟩ | ⟨-, hmove⟩ := s.schedule_cases <;> rw [hmove]
    · exact .inl ⟨rfl, rfl, rfl, rfl⟩
    · exact .inr (.inr rfl)
    · exact .inr (.inr (State.nextPair_status s))
    · exact .inr (.inl (State.nextPair_status s.discardRun))

/-- Settles O38: inside a run the core's step ends in one of three ways, and outside one a step starts a run, idles, or
leaves the status. -/
theorem statusTransitions : Obligations.StatusTransitions := by
  unfold Obligations.StatusTransitions
  intro s t hstep
  refine ⟨step_cfg hstep, fun hrun => ?_, fun hr ht => ?_, fun hr ht => ?_, fun hr ht => ?_⟩
  · rcases coreStep_ends hrun (step_of_running hrun ▸ hstep) with h | h | h
    · exact .inl h.1
    · exact .inr (.inl h.1)
    · exact .inr (.inr h.1)
  · obtain ⟨-, hstart⟩ | hidle | hsame := step_status_of_not_running hr hstep
    · exact hstart
    · simp [ht] at hidle
    · exact absurd (hsame.symm.trans ht) hr
  · obtain ⟨hstart, -⟩ | hidle | hsame := step_status_of_not_running hr hstep
    · simp [ht] at hstart
    · simp [ht] at hidle
    · exact hsame.symm.trans ht
  · obtain ⟨hstart, -⟩ | hidle | hsame := step_status_of_not_running hr hstep
    · simp [ht] at hstart
    · simp [ht] at hidle
    · exact hsame.symm.trans ht

/-! ### The scheduler's status -/

theorem State.nextPair_sstatus (s : State) : s.nextPair.sstatus = s.sstatus ∨ s.nextPair.sstatus = .notFound := by
  obtain ⟨-, h⟩ | ⟨-, -, h⟩ | ⟨-, -, h⟩ := s.nextPair_cases <;> rw [h]
  · exact .inl rfl
  · exact .inl rfl
  · exact .inr rfl

theorem State.schedule_sstatus (s : State) :
    s.schedule.sstatus = s.sstatus ∨ s.schedule.sstatus = .found ∨ s.schedule.sstatus = .notFound := by
  obtain ⟨m, -, -, hmove⟩ | ⟨-, -, hmove⟩ | ⟨-, hmove⟩ | ⟨-, hmove⟩ := s.schedule_cases <;> rw [hmove]
  · exact .inl rfl
  · exact .inr (.inl rfl)
  · exact s.nextPair_sstatus.imp_right .inr
  · exact s.discardRun.nextPair_sstatus.imp_right .inr

/-- Settles O52: within a search only the scheduler writes `sstatus`, to itself, `Found` or `NotFound`; outside one no
step but the start of a transaction writes it. -/
theorem searchStatusTransitions : Obligations.SearchStatusTransitions := by
  unfold Obligations.SearchStatusTransitions
  intro s t h hstep
  refine ⟨fun hsearching => ?_, fun hnot hchange => ?_⟩
  · obtain ⟨-, hcore⟩ | ⟨-, rfl⟩ := step_cases_of_search (h.searching.mp hsearching) hstep
    · rw [coreStep_frame hcore]
      exact .inl hsearching
    · exact hsearching ▸ s.schedule_sstatus
  · obtain ⟨-, hcore⟩ | ⟨-, ha, r, hq, -⟩ | ⟨-, -, ⟨-, rfl⟩ | ⟨-, rfl⟩⟩ | ⟨-, ha, -⟩ := step_cases hstep
    · rw [coreStep_frame hcore] at hchange
      exact absurd rfl hchange
    · exact ⟨ha, by simp [hq]⟩
    · exact absurd rfl hchange
    · exact absurd rfl hchange
    · exact absurd (h.searching.mpr ha) hnot

end Sys2Proof.Machine
end

section
/-! PROOF. The transactions step by step reach the results of their functions: a run inside the block
(46_host_interface.md section 1, 40_execution_cycle.md section 2). -/

namespace Sys2Proof.Machine

variable {s t u : State} {c : Config} {m : Memory} {text : Text} {j k : Nat} {a : Activity}

/-! ### Steps one after another -/

theorem stepsTo_trans (hst : stepsTo j s t) (htu : stepsTo k t u) : stepsTo (j + k) s u := by
  induction j generalizing s with
  | zero =>
    obtain rfl : s = t := hst
    rwa [Nat.zero_add]
  | succ j ih =>
    obtain ⟨v, hstep, hrest⟩ := hst
    rw [Nat.add_right_comm]
    exact ⟨v, hstep, ih hrest⟩

/-- At most `n` steps lead from `s` to `t`, each answering a next state. -/
def StepsWithin (n : Nat) (s t : State) : Prop := ∃ k, k ≤ n ∧ stepsTo k s t

theorem StepsWithin.refl (n : Nat) (s : State) : StepsWithin n s s := ⟨0, Nat.zero_le n, rfl⟩

theorem StepsWithin.of_step (h : step s = .next t) : StepsWithin 1 s t := ⟨1, Nat.le_refl 1, t, h, rfl⟩

theorem StepsWithin.trans (hst : StepsWithin j s t) (htu : StepsWithin k t u) : StepsWithin (j + k) s u := by
  obtain ⟨j', hj, hst⟩ := hst
  obtain ⟨k', hk, htu⟩ := htu
  exact ⟨j' + k', Nat.add_le_add hj hk, stepsTo_trans hst htu⟩

theorem StepsWithin.mono (h : StepsWithin j s t) (hjk : j ≤ k) : StepsWithin k s t := by
  obtain ⟨i, hi, hst⟩ := h
  exact ⟨i, hi.trans hjk, hst⟩

/-! ### A run inside the block -/

/-- The passes of the loop of R91 are steps of the block. -/
theorem stepsWithin_runLoop (k : Nat) (s : State) : StepsWithin k s (runLoop k s) := by
  induction k generalizing s with
  | zero => exact .refl 0 s
  | succ k ih =>
    by_cases hrun : s.status = .running
    · obtain ⟨t, ht⟩ := coreStep_next s
      have hfirst : StepsWithin 1 s t := .of_step (step_of_running hrun ▸ ht)
      rw [runLoop_step k hrun ht]
      exact (hfirst.trans (ih t)).mono (Nat.le_of_eq (Nat.add_comm 1 k))
    · rw [runLoop_stopped _ hrun]
      exact .refl _ s

theorem stepsWithin_runOn (s : State) (m : Memory) : StepsWithin (m.length / 4 + 1) (s.startRun m) (runOn s m) :=
  stepsWithin_runLoop _ _

/-- `discardRun` forgets the core alone, and the core is all a run writes: so the rest of the block is as it was (R28). -/
theorem runOn_discardRun (s : State) (m : Memory) : (runOn s m).discardRun = s.discardRun := by
  have hstep : ∀ t u : State, t.discardRun = s.discardRun → t.status = .running → coreStep t = .next u →
      u.discardRun = s.discardRun := by
    intro t u ht _ hcore
    rw [← ht, coreStep_frame hcore]
    rfl
  exact runLoop_induction hstep _ (s.startRun m) rfl

@[simp] theorem runOn_cfg (s : State) (m : Memory) : (runOn s m).cfg = s.cfg := by
  simpa using congrArg State.cfg (runOn_discardRun s m)

@[simp] theorem runOn_activity (s : State) (m : Memory) : (runOn s m).activity = s.activity := by
  simpa using congrArg State.activity (runOn_discardRun s m)

@[simp] theorem runOn_request (s : State) (m : Memory) : (runOn s m).request = s.request := by
  simpa using congrArg State.request (runOn_discardRun s m)

@[simp] theorem runOn_target (s : State) (m : Memory) : (runOn s m).target = s.target := by
  simpa using congrArg State.target (runOn_discardRun s m)

/-- A run in the block has the observation of the function `run` (R35, R92). -/
theorem runOn_runReply (s : State) (m : Memory) : (runOn s m).runReply = (run s.cfg m).runReply :=
  (nothingOfEarlierRunsSurvives s (State.resetWith s.cfg) m (m.length / 4 + 1) rfl).1

theorem runOn_ne_idle (s : State) (m : Memory) : (runOn s m).status ≠ .idle :=
  (runOn_runInv s m).started

/-! ### `RUN` and `DIRECT` -/

/-- The reset block in the middle of a `RUN` or `DIRECT`. -/
def State.inTransaction (c : Config) (a : Activity) : State := { State.resetWith c with activity := a }

/-- From the start of its run a transaction reaches the end of the run and then, in one more step, its own end. -/
theorem stepsWithin_finish {reply : Reply}
    (hend : step (runOn (State.inTransaction c a) m) = .next ((runOn (State.inTransaction c a) m).finish reply)) :
    ∃ t, StepsWithin (m.length / 4 + 2) ((State.inTransaction c a).startRun m) t ∧ t.Finished reply ∧ t.cfg = c :=
  ⟨_, (stepsWithin_runOn _ m).trans (.of_step hend),
    ⟨runOn_stops _ m, rfl, runOn_request _ m, rfl⟩, runOn_cfg _ m⟩

/-- Settles O54: the start, the attempts of the run, and the end of the transaction with the run's observation. -/
theorem runTransactionReachesItsResult : Obligations.RunTransactionReachesItsResult := by
  unfold Obligations.RunTransactionReachesItsResult
  intro s m hpending hm
  have hstart : StepsWithin 1 s ((State.inTransaction s.cfg .run).startRun m) :=
    .of_step ((step_of_pending hpending).trans (State.begin_run hm))
  have hend := step_of_ended_run (runOn_stops (State.inTransaction s.cfg .run) m) (runOn_ne_idle _ m) (runOn_activity _ m)
  obtain ⟨t, hsteps, hfinished, hcfg⟩ := stepsWithin_finish hend
  obtain ⟨k, hk, hst⟩ := hstart.trans hsteps
  rw [runOn_runReply] at hfinished
  exact ⟨k, t, by omega, hst, hfinished, hcfg⟩

/-- A text has no more tokens than characters and one (R123). -/
theorem load_length_le (h : load c text = .ok m) : m.length ≤ text.length + 1 := by
  have hcommas : (firstLine text).countP isComma ≤ text.length :=
    List.countP_le_length.trans (List.takeWhile_sublist _).length_le
  have hlength := (loadedLengthIsCommasPlusOne c text m h).1
  omega

/-- What `DIRECT` returns is in the observation of its run (R163). -/
theorem State.directReply_congr (h : s.runReply = t.runReply) : s.directReply = t.directReply := by
  obtain ⟨-, hfault, -, hmem⟩ := State.runReply_eq_iff.mp h
  simp only [State.directReply, hfault, hmem]

/-- Settles O55: an error of the load or of the patch ends the transaction in its first step, else the run is the one of
the function. -/
theorem directTransactionReachesItsResult : Obligations.DirectTransactionReachesItsResult := by
  unfold Obligations.DirectTransactionReachesItsResult
  intro s text noun verb hpending hdomain
  have at_once : ∀ {f}, s.begin (.direct text noun verb) = .next ((State.resetWith s.cfg).finish (.error f)) →
      ∃ k t, k ≤ text.length + 4 ∧ stepsTo k s t ∧ t.Finished (.error f) ∧ t.cfg = s.cfg := fun hbegin =>
    ⟨1, _, by omega, ⟨_, (step_of_pending hpending).trans hbegin, rfl⟩, State.finished_resetWith_finish _ _, rfl⟩
  cases hload : load s.cfg text with
  | error f =>
    rw [direct_of_load_error hload]
    exact at_once (State.begin_direct_load_error hload)
  | ok m =>
  have hvalues : noun < 2 ^ s.cfg.width ∧ verb < 2 ^ s.cfg.width := by simpa [hload] using hdomain
  cases hpatch : m.patch noun verb with
  | error f =>
    rw [direct_of_patch_error hload hpatch]
    exact at_once (State.begin_direct_patch_error hload hvalues hpatch)
  | ok m' =>
    have hstart : StepsWithin 1 s ((State.inTransaction s.cfg .direct).startRun m') :=
      .of_step ((step_of_pending hpending).trans (State.begin_direct_run hload hvalues hpatch))
    have hend := step_of_ended_direct (runOn_stops (State.inTransaction s.cfg .direct) m') (runOn_ne_idle _ m')
      (runOn_activity _ m')
    obtain ⟨t, hsteps, hfinished, hcfg⟩ := stepsWithin_finish hend
    obtain ⟨k, hk, hst⟩ := hstart.trans hsteps
    have hlength := load_length_le hload
    have hpatched := Memory.patch_length hpatch
    rw [State.directReply_congr (runOn_runReply _ m')] at hfinished
    rw [direct_of_run hload hpatch]
    exact ⟨k, t, by omega, hst, hfinished, hcfg⟩

end Sys2Proof.Machine
end

section
/-! PROOF. The search step by step, trial after trial, reaches the result of the function `search`
(45_search_scheduler.md sections 2 and 3, 46_host_interface.md section 2). -/

namespace Sys2Proof.Machine

variable {s t e : State} {c : Config} {a : Activity} {base m : Memory} {target r : Nat} {text : Text}

/-! ### One trial -/

/-- A finished run is judged by its observation (R146). -/
theorem State.matchesTarget_congr (h : s.runReply = t.runReply) (target : Nat) :
    s.matchesTarget target = t.matchesTarget target := by
  obtain ⟨hstatus, -, -, hmem⟩ := State.runReply_eq_iff.mp h
  simp only [State.matchesTarget, hstatus, hmem]

/-- The core without a run, as it is between two trials (log 8). -/
theorem State.idle_of_discardRun (hs : s.discardRun = s) : s.status = .idle := by
  rw [← hs, State.discardRun_status]

/-- The start of a trial and its run: the patched image is run to its end (R142 to R144). -/
theorem stepsWithin_trial_run (hs : s.discardRun = s) (ha : s.activity = .search ∨ s.activity = .calibrate)
    (hpatch : s.base.patch s.noun s.verb = .ok m) : StepsWithin (s.base.length / 4 + 2) s (runOn s m) := by
  have hidle := State.idle_of_discardRun hs
  have hstart : StepsWithin 1 s (s.startRun m) :=
    .of_step (State.schedule_of_patch hidle hpatch ▸ step_of_search ha (by simp [hidle]))
  rw [← Memory.patch_length hpatch]
  exact (hstart.trans (stepsWithin_runOn s m)).mono (by omega)

/-- The scheduler's step after a trial's run (R144). -/
theorem step_of_trial_end (ha : s.activity = .search ∨ s.activity = .calibrate) (m : Memory) :
    step (runOn s m) = .next (runOn s m).schedule :=
  step_of_search (by rwa [runOn_activity]) (runOn_stops s m)

/-- A trial that does not match leads to the next pair, whether its patch fails or its run (R145). -/
theorem stepsWithin_nextPair (hs : s.discardRun = s) (ha : s.activity = .search ∨ s.activity = .calibrate)
    (hno : trialMatches s.cfg s.base s.target s.noun s.verb = false) :
    StepsWithin (s.base.length / 4 + 3) s s.nextPair := by
  cases hpatch : s.base.patch s.noun s.verb with
  | error f =>
    have hidle := State.idle_of_discardRun hs
    have hmove : step s = .next s.nextPair :=
      State.schedule_of_patch_error hidle hpatch ▸ step_of_search ha (by simp [hidle])
    exact (StepsWithin.of_step hmove).mono (by omega)
  | ok m =>
    rw [trialMatches_of_patch hpatch, ← State.matchesTarget_congr (runOn_runReply s m)] at hno
    have hmove : (runOn s m).schedule = s.nextPair := by
      rw [State.schedule_of_no_match (runOn_ne_idle s m), runOn_discardRun, hs]
      rw [runOn_target, ← State.matchesTarget_iff, hno]
      exact Bool.false_ne_true
    exact (stepsWithin_trial_run hs ha hpatch).trans (.of_step (hmove ▸ step_of_trial_end ha m))

/-- A trial that matches ends the search in the state its run left (R146). -/
theorem stepsWithin_searchFound (hs : s.discardRun = s) (ha : s.activity = .search ∨ s.activity = .calibrate)
    (hmatch : trialMatches s.cfg s.base s.target s.noun s.verb = true) :
    ∃ e : State, e.status = .halted ∧ e.discardRun = s ∧ StepsWithin (s.base.length / 4 + 3) s e.searchFound := by
  cases hpatch : s.base.patch s.noun s.verb with
  | error f => simp [trialMatches_of_patch_error hpatch] at hmatch
  | ok m =>
    rw [trialMatches_of_patch hpatch, ← State.matchesTarget_congr (runOn_runReply s m),
      State.matchesTarget_iff] at hmatch
    obtain ⟨hhalted, hread⟩ := hmatch
    have hmove : (runOn s m).schedule = (runOn s m).searchFound :=
      State.schedule_of_match hhalted (by rwa [runOn_target])
    exact ⟨runOn s m, hhalted, (runOn_discardRun s m).trans hs,
      (stepsWithin_trial_run hs ha hpatch).trans (.of_step (hmove ▸ step_of_trial_end ha m))⟩

/-! ### The trials in the order of their ranks -/

/-- The block in a search, before the trial of rank `r`. -/
def searchState (c : Config) (a : Activity) (base : Memory) (target r : Nat) : State :=
  { (State.resetWith c).beginSearch a base target with noun := (pairAt r).1, verb := (pairAt r).2 }

theorem searchState_nextPair (hr : r < 9999) :
    (searchState c a base target r).nextPair = searchState c a base target (r + 1) := by
  obtain ⟨hv, hnext⟩ | ⟨hv, hn, hnext⟩ | ⟨hv, hn, hnext⟩ := (searchState c a base target r).nextPair_cases <;>
    simp only [searchState, pairAt] at hv
  · have hnoun : (r + 1) / 100 = r / 100 := by omega
    have hverb : (r + 1) % 100 = r % 100 + 1 := by omega
    rw [hnext]
    simp only [searchState, pairAt, hnoun, hverb]
  · have hnoun : (r + 1) / 100 = r / 100 + 1 := by omega
    have hverb : (r + 1) % 100 = 0 := by omega
    rw [hnext]
    simp only [searchState, pairAt, hnoun, hverb]
  · simp only [searchState, pairAt] at hn
    omega

theorem searchState_nextPair_last :
    (searchState c a base target 9999).nextPair = (searchState c a base target 9999).searchExhausted := rfl

/-- What a search replies with, by the transaction it belongs to (R148, R165). -/
def searchReply (a : Activity) : Option (Nat × Nat) → Reply
  | none => .notFound
  | some (n, v) =>
    match a with
    | .calibrate => .foundChecksum n v (checksum n v)
    | _ => .found n v

/-- The block at the end of a search: the transaction is finished with what the function `search` returns, which the
register `result` holds too, and the base is unwritten. -/
structure SearchEnded (c : Config) (a : Activity) (base : Memory) (target : Nat) (e : State) : Prop where
  finished : e.Finished (searchReply a (search c base target))
  cfg : e.cfg = c
  unwritten : e.base = base
  result : e.result = search c base target

theorem SearchEnded.of_found (ha : a = .search ∨ a = .calibrate) (hhalted : e.status = .halted)
    (he : e.discardRun = searchState c a base target r) (hfound : search c base target = some (pairAt r)) :
    SearchEnded c a base target e.searchFound := by
  have hrequest : e.request = none := congrArg State.request he
  have hreply : e.foundReply = searchReply a (some (pairAt r)) := by
    have hsame : e.discardRun.foundReply = (searchState c a base target r).foundReply := congrArg State.foundReply he
    rw [show e.foundReply = e.discardRun.foundReply from rfl, hsame]
    rcases ha with rfl | rfl <;> rfl
  have hcfg : e.cfg = c := congrArg State.cfg he
  have hbase : e.base = base := congrArg State.base he
  have hpair : some (e.noun, e.verb) = some (pairAt r) := congrArg (fun s : State => some (s.noun, s.verb)) he
  exact ⟨⟨by simp [hhalted], rfl, hrequest, by rw [State.searchFound_reply, hreply, hfound]⟩, hcfg, hbase,
    hpair.trans hfound.symm⟩

theorem SearchEnded.of_exhausted (hnone : search c base target = none) :
    SearchEnded c a base target (searchState c a base target 9999).searchExhausted := by
  refine ⟨⟨?_, rfl, rfl, ?_⟩, rfl, rfl, hnone.symm⟩
  · simp [searchState]
  · rw [hnone]
    rfl

/-- With no hit among the ranks before `r`, the trial of rank `r` ends the search, or misses too and leads to the next
pair. -/
theorem trial_ends_or_misses (ha : a = .search ∨ a = .calibrate) (hr : r < 10000)
    (hbefore : ∀ i, i < r → ¬ TrialHits c base target (pairAt i).1 (pairAt i).2) :
    (∃ e, StepsWithin (base.length / 4 + 3) (searchState c a base target r) e ∧ SearchEnded c a base target e) ∨
    (StepsWithin (base.length / 4 + 3) (searchState c a base target r) (searchState c a base target r).nextPair ∧
      ∀ i, i < r + 1 → ¬ TrialHits c base target (pairAt i).1 (pairAt i).2) := by
  cases hmatch : trialMatches c base target (pairAt r).1 (pairAt r).2 with
  | true =>
    have hfound : search c base target = some (pairAt r) :=
      search_eq_some_iff.mpr ⟨r, hr, rfl, trialMatches_iff.mp hmatch, hbefore⟩
    obtain ⟨e, hhalted, he, hsteps⟩ := stepsWithin_searchFound (s := searchState c a base target r) rfl ha hmatch
    exact .inl ⟨_, hsteps, .of_found ha hhalted he hfound⟩
  | false =>
    refine .inr ⟨stepsWithin_nextPair (s := searchState c a base target r) rfl ha hmatch, fun i hi => ?_⟩
    rcases Nat.lt_succ_iff_lt_or_eq.mp hi with hlt | rfl
    · exact hbefore i hlt
    · simp [← trialMatches_iff, hmatch]

/-- With no hit among the ranks before `r`, the trials from `r` on lead to the end of the search, each in its bound. -/
theorem search_ends_from (ha : a = .search ∨ a = .calibrate) (k : Nat) (hk : r + (k + 1) = 10000)
    (hbefore : ∀ i, i < r → ¬ TrialHits c base target (pairAt i).1 (pairAt i).2) :
    ∃ e, StepsWithin ((k + 1) * (base.length / 4 + 3)) (searchState c a base target r) e ∧
      SearchEnded c a base target e := by
  induction k generalizing r with
  | zero =>
    obtain rfl : r = 9999 := by omega
    rcases trial_ends_or_misses ha (by omega) hbefore with ⟨e, hsteps, hended⟩ | ⟨hsteps, hupto⟩
    · exact ⟨e, hsteps.mono (by omega), hended⟩
    · rw [searchState_nextPair_last] at hsteps
      exact ⟨_, hsteps.mono (by omega), .of_exhausted (search_eq_none_iff.mpr hupto)⟩
  | succ k ih =>
    rcases trial_ends_or_misses ha (by omega) hbefore with ⟨e, hsteps, hended⟩ | ⟨hsteps, hupto⟩
    · exact ⟨e, hsteps.mono (Nat.le_mul_of_pos_left _ (Nat.succ_pos _)), hended⟩
    · rw [searchState_nextPair (by omega)] at hsteps
      obtain ⟨e, hrest, hended⟩ := ih (by omega) hupto
      refine ⟨e, (hsteps.trans hrest).mono (Nat.le_of_eq ?_), hended⟩
      rw [Nat.add_comm, ← Nat.succ_mul]

/-- The whole search, from its first pair: 10,000 trials at most (R141, R148). -/
theorem search_ends (c : Config) (base : Memory) (target : Nat) (ha : a = .search ∨ a = .calibrate) :
    ∃ e, StepsWithin (10000 * (base.length / 4 + 3)) ((State.resetWith c).beginSearch a base target) e ∧
      SearchEnded c a base target e :=
  search_ends_from (r := 0) ha 9999 rfl nofun

/-! ### The transactions -/

theorem perform_search (c : Config) (base : Memory) (target : Nat) :
    perform c (.search base target) = searchReply .search (search c base target) := by
  cases hsearch : search c base target with
  | none => simp [perform, hsearch, searchReply]
  | some p => simp [perform, hsearch, searchReply]

/-- Settles O56: the start of the search, then its trials in the order of their ranks up to the first that hits. -/
theorem searchTransactionReachesItsResult : Obligations.SearchTransactionReachesItsResult := by
  unfold Obligations.SearchTransactionReachesItsResult
  intro s base target hpending hbase hwidth
  have hstart : StepsWithin 1 s ((State.resetWith s.cfg).beginSearch .search base target) :=
    .of_step ((step_of_pending hpending).trans (State.begin_search hwidth hbase))
  obtain ⟨e, hsteps, hended⟩ := search_ends s.cfg base target (a := .search) (.inl rfl)
  obtain ⟨k, hk, hst⟩ := hstart.trans hsteps
  rw [perform_search]
  exact ⟨k, e, Nat.add_comm 1 _ ▸ hk, hst, hended.finished, hended.cfg, hended.unwritten, hended.result⟩

theorem calibrate_of_load (hload : load c text = .ok base) :
    calibrate c text target = searchReply .calibrate (search c base target) := by
  cases hsearch : search c base target with
  | none => exact calibrate_of_none hload hsearch
  | some p => exact calibrate_of_found hload hsearch

/-- Settles O57: an error of the load ends the transaction in its first step, else the search on the loaded base is the
one of the function. -/
theorem calibrateTransactionReachesItsResult : Obligations.CalibrateTransactionReachesItsResult := by
  unfold Obligations.CalibrateTransactionReachesItsResult
  intro s text target hpending hdomain
  cases hload : load s.cfg text with
  | error f =>
    rw [calibrate_of_load_error hload]
    exact ⟨1, _, by omega, ⟨_, (step_of_pending hpending).trans (State.begin_calibrate_load_error hload), rfl⟩,
      State.finished_resetWith_finish _ _, rfl⟩
  | ok base =>
    have hwidth : 7 ≤ s.cfg.width := by simpa [hload] using hdomain
    have hstart : StepsWithin 1 s ((State.resetWith s.cfg).beginSearch .calibrate base target) :=
      .of_step ((step_of_pending hpending).trans (State.begin_calibrate hload hwidth))
    obtain ⟨e, hsteps, hended⟩ := search_ends s.cfg base target (a := .calibrate) (.inr rfl)
    obtain ⟨k, hk, hst⟩ := hstart.trans hsteps
    have hlength := load_length_le hload
    have htrial : base.length / 4 + 3 ≤ text.length + 4 := by omega
    have hbound : k ≤ 10000 * (text.length + 4) + 1 := calc
      k ≤ 1 + 10000 * (base.length / 4 + 3) := hk
      _ ≤ 1 + 10000 * (text.length + 4) := Nat.add_le_add_left (Nat.mul_le_mul_left _ htrial) 1
      _ = 10000 * (text.length + 4) + 1 := Nat.add_comm 1 _
    rw [calibrate_of_load hload]
    exact ⟨k, e, hbound, hst, hended.finished, hended.cfg⟩

end Sys2Proof.Machine
end
